-- ==== Sys2Proof/Word.lean ====
section
/-! DEFINITION. The word type. Every width of this block is a parameter of the instance (00_scope.md R7, R8), so a
word is a natural number, `Nat`, and its width is said beside it: "A value of width N is an unsigned integer in
`0 .. 2^N - 1`", and nothing in the hardware is signed (00_scope.md R11). -/

namespace Sys2Proof

/-- `v` is a value of width `w` (00_scope.md R11). -/
abbrev fits (w v : Nat) : Prop := v < 2 ^ w

end Sys2Proof
end

