-- ==== Sys2Proof/Config.lean ====
section
/-! DEFINITION. What one instance of the block fixes (00_scope.md R6 to R10), and the free values: the outputs and
cell bits no rule gives a value (93_implementation_defined.md U4, U5), opaque, so that nothing in Lean can evaluate
them or prove a value of one. -/

namespace Sys2Proof

/-- The open parameters of one instance (00_scope.md R10). CAP, AW and MASK are computed from `req`
(`Machine.capOf`, `Machine.awOf`). Constants: no step changes them (R10, R114). Log 1. -/
structure Params where
  /-- REQ, the requested size, any natural number (R6; 91_not_in_source.md N7). -/
  req : Nat
  /-- DW, the width of one item, at least 1 (R7). -/
  dw : Nat
  /-- CW, the width of the counter, at least 1 (R8). -/
  cw : Nat
  /-- INIT, the counter's construction value, CW bits: 0 for `new()`, `v` for `with_value(v)` (R8). -/
  init : Nat
  /-- S, the flip-flop stages of each index synchronizer, at least 2 (R9). -/
  stages : Nat
  /-- NP, the number of counter client ports, at least 1 (R8). -/
  ports : Nat
deriving DecidableEq, Repr

/-- The ranges of 00_scope.md, Table for rule R10. -/
abbrev Params.wf (p : Params) : Prop :=
  1 ≤ p.dw ∧ 1 ≤ p.cw ∧ fits p.cw p.init ∧ 2 ≤ p.stages ∧ 1 ≤ p.ports

/-- The instance `State.reset` stands for. DESIGN CHOICE, log 1: the spec fixes none of REQ, DW, NP; CW 64 and S 2
are its suggested values (R8, R9), INIT 0 is `new()`. No statement rests on these numbers. -/
def Params.default : Params :=
  { req := 4, dw := 8, cw := 64, init := 0, stages := 2, ports := 2 }

/-- FREE VALUE: the bits on `rd_data` while `rd_valid = 0` (10_state.md R35, 42_fifo_receive.md R132), by the
model's stamp. Log 5. -/
opaque Config.freeRdData : Nat → Nat

/-- FREE VALUE: the bits on `ctr_rdata_i` while `ctr_rvalid_i = 0` (10_state.md R35), by port and stamp. Log 5. -/
opaque Config.freeCtrData : Nat → Nat → Nat

/-- FREE VALUE: the data bits of an `Empty` cell (10_state.md R36, 30_encoding.md R88), by slot index and stamp.
Log 5. -/
opaque Config.freeCellData : Nat → Nat → Nat

end Sys2Proof
end

