-- ==== Sys2Proof/Syntax.lean ====
section
/-! DEFINITION. What can be offered to the block: the agents, the ports with their formats, and the operations, one
constructor of `Instr` per row of spec/opcode_table.json (30_encoding.md R96). -/

namespace Sys2Proof

/-- The agents that take steps (00_scope.md R18), and any other one (60_exceptions.md R206, 44_fifo_status.md R165
speak of a second driver and of a third observer). -/
inductive Agent
  /-- `P`, the producer. -/
  | p
  /-- `C`, the consumer. -/
  | c
  /-- `XH`, the head synchronizer. -/
  | xh
  /-- `XT`, the tail synchronizer. -/
  | xt
  /-- `Ki`, the client of counter port `i`. -/
  | k (i : Nat)
  /-- `H`, the host. -/
  | h
  /-- Any agent that is none of R18's. -/
  | other (n : Nat)
deriving DecidableEq, Repr

/-- The status outputs of format SW, on port W (30_encoding.md R81, R90). -/
inductive WrOutput
  | capacity | wrLen | wrIsEmpty | wrFull
deriving DecidableEq, Repr

/-- The status outputs on port R (30_encoding.md R83, R90; `capacity` is shown on port R too, R160). -/
inductive RdOutput
  | capacity | rdLen | rdIsEmpty | rdEmpty
deriving DecidableEq, Repr

/-- Where a command arrives; the port tells its format (30_encoding.md R80, R99). Formats SW, SR and X have no
command bits (R90), so there the port says which output is read, or which synchronizer steps. -/
inductive Port
  /-- Port W, format W: `wr_en` (R82). -/
  | w
  /-- Port R, format R: `rd_en` (R84). -/
  | r
  /-- Counter port `i`, format K: `ctr_op_i[2:0]` (R87). -/
  | k (i : Nat)
  /-- The FIFO's reset pins, format HF: `{wr_rst_n, rd_rst_n}` (R89). -/
  | hf
  /-- The counter's reset pin, format HK: `ctr_rst_n` (R89). -/
  | hk
  /-- A status output of the write side, format SW. -/
  | sw (o : WrOutput)
  /-- A status output of the read side, format SR. -/
  | sr (o : RdOutput)
  /-- The internal step of XH, format X. -/
  | xh
  /-- The internal step of XT, format X. -/
  | xt
deriving DecidableEq, Repr

/-- What stands at a port at one active edge of its clock (30_encoding.md R80): the command bits, bit 0 least
significant, and beside them the operand bus (`wr_data` on port W, `ctr_wdata_i` on counter port `i`). For a
synchronizer step `bus` is its draw `k`, which has no bits and no pins (43_fifo_sync.md R140). -/
structure Offer where
  port : Port
  cmd : Nat
  bus : Nat
deriving DecidableEq, Repr

/-- One line of a run, `<agent>: <MNEMONIC> [operand]` (30_encoding.md R100), before decoding: who drives the port,
and what stands there. -/
structure Line where
  agent : Agent
  offer : Offer
deriving DecidableEq, Repr

/-- The operations, one constructor per row of spec/opcode_table.json. A counter operation names the port that issued
it, since its answer goes to that port's pins (30_encoding.md R86). -/
inductive Instr
  /-- SEND, `wr_en = 1`, `item = wr_data` (41_fifo_send.md R120). -/
  | send (item : Nat)
  /-- W_IDLE, `wr_en = 0` (R124). -/
  | wIdle
  /-- RECV, `rd_en = 1` (42_fifo_receive.md R130). -/
  | recv
  /-- R_IDLE, `rd_en = 0` (R134). -/
  | rIdle
  /-- CTR_NOP, `000` (45_counter.md R171). -/
  | ctrNop (port : Nat)
  /-- GET, `001` (R172). -/
  | get (port : Nat)
  /-- INCREMENT, `010` (R173). -/
  | increment (port : Nat)
  /-- ADD, `011`, `n = ctr_wdata` (R174). -/
  | add (port : Nat) (n : Nat)
  /-- SWAP, `100`, `v = ctr_wdata` (R175). -/
  | swap (port : Nat) (v : Nat)
  /-- RESET, `101` (R176). -/
  | reset (port : Nat)
  /-- FIFO_RESET, `00` (40_fifo_construct.md R110). -/
  | fifoReset
  /-- FIFO_RUN, `11` (R113). -/
  | fifoRun
  /-- CTR_RESET, `0` (45_counter.md R170). -/
  | ctrReset
  /-- CTR_RUN, `1` (R183). -/
  | ctrRun
  /-- CAPACITY (44_fifo_status.md R160). -/
  | capacity
  /-- LEN_W (R161). -/
  | lenW
  /-- IS_EMPTY_W (R163). -/
  | isEmptyW
  /-- FULL (R166). -/
  | full
  /-- LEN_R (R162). -/
  | lenR
  /-- IS_EMPTY_R (R164). -/
  | isEmptyR
  /-- EMPTY (R166). -/
  | empty
  /-- SYNC_H with its draw `k` (43_fifo_sync.md R140). -/
  | syncH (k : Nat)
  /-- SYNC_T with its draw `k` (R141). -/
  | syncT (k : Nat)
deriving DecidableEq, Repr

end Sys2Proof
end

