-- ==== Sys2Proof/WellFormed.lean ====
section
/-! DEFINITION. Which operations can be offered to an instance at all: operands of the width of their bus
(30_encoding.md R91; 92_eei_decisions.md D38), counter ports that exist (R86), draws of at least one step
(43_fifo_sync.md R140, R141; the upper bound of a draw depends on the state and is checked by the step). -/

namespace Sys2Proof

/-- `i` can be offered to an instance with parameters `p`. -/
def Instr.wellFormed (p : Params) : Instr → Bool
  | .send item => decide (fits p.dw item)
  | .ctrNop port => decide (port < p.ports)
  | .get port => decide (port < p.ports)
  | .increment port => decide (port < p.ports)
  | .add port n => decide (port < p.ports) && decide (fits p.cw n)
  | .swap port v => decide (port < p.ports) && decide (fits p.cw v)
  | .reset port => decide (port < p.ports)
  | .syncH k => decide (1 ≤ k)
  | .syncT k => decide (1 ≤ k)
  | .wIdle => true
  | .recv => true
  | .rIdle => true
  | .fifoReset => true
  | .fifoRun => true
  | .ctrReset => true
  | .ctrRun => true
  | .capacity => true
  | .lenW => true
  | .isEmptyW => true
  | .full => true
  | .lenR => true
  | .isEmptyR => true
  | .empty => true

end Sys2Proof
end

