-- ==== Sys2Proof/Decode.lean ====
section
/-! DEFINITION. The decoder, total on any bits at any port, rejecting by name (30_encoding.md R82, R84, R87, R89,
R90, R97), and after it the encoder, written from the same table (R96). -/

namespace Sys2Proof

/-- Why a word at a port is no operation. -/
inductive DecodeError
  /-- Format K codes `110` and `111` (30_encoding.md R97). -/
  | reservedCounterOp
  /-- Format HF codes `01` and `10` (R97). -/
  | partialReset
  /-- More bits than the format of the port has (R80): no value of that port's pins. Log 22. -/
  | notOfFormat
deriving DecidableEq, Repr

/-- Format W: the command word is the single bit `wr_en` (30_encoding.md R82). -/
def decodeW (cmd bus : Nat) : Except DecodeError Instr :=
  match cmd with
  | 0 => .ok .wIdle
  | 1 => .ok (.send bus)
  | _ => .error .notOfFormat

/-- Format R: the command word is the single bit `rd_en` (30_encoding.md R84). -/
def decodeR (cmd : Nat) : Except DecodeError Instr :=
  match cmd with
  | 0 => .ok .rIdle
  | 1 => .ok .recv
  | _ => .error .notOfFormat

/-- Format K: the command word is `ctr_op[2:0]`; `110` and `111` are reserved (30_encoding.md R87, R97). -/
def decodeK (port : Nat) (cmd bus : Nat) : Except DecodeError Instr :=
  match cmd with
  | 0b000 => .ok (.ctrNop port)
  | 0b001 => .ok (.get port)
  | 0b010 => .ok (.increment port)
  | 0b011 => .ok (.add port bus)
  | 0b100 => .ok (.swap port bus)
  | 0b101 => .ok (.reset port)
  | 0b110 => .error .reservedCounterOp
  | 0b111 => .error .reservedCounterOp
  | _ => .error .notOfFormat

/-- Format HF: `{wr_rst_n, rd_rst_n}`, bit 1 and bit 0; `01` and `10` are reserved (30_encoding.md R89, R97). -/
def decodeHF (cmd : Nat) : Except DecodeError Instr :=
  match cmd with
  | 0b00 => .ok .fifoReset
  | 0b01 => .error .partialReset
  | 0b10 => .error .partialReset
  | 0b11 => .ok .fifoRun
  | _ => .error .notOfFormat

/-- Format HK: the single bit `ctr_rst_n` (30_encoding.md R89). -/
def decodeHK (cmd : Nat) : Except DecodeError Instr :=
  match cmd with
  | 0 => .ok .ctrReset
  | 1 => .ok .ctrRun
  | _ => .error .notOfFormat

/-- Format SW has no command bits: the output read is the operation (30_encoding.md R90). -/
def decodeSW : WrOutput → Instr
  | .capacity => .capacity
  | .wrLen => .lenW
  | .wrIsEmpty => .isEmptyW
  | .wrFull => .full

/-- Format SR likewise; `capacity` is shown on both ports (44_fifo_status.md R160). -/
def decodeSR : RdOutput → Instr
  | .capacity => .capacity
  | .rdLen => .lenR
  | .rdIsEmpty => .isEmptyR
  | .rdEmpty => .empty

/-- A format with no command bits holds no bit: only the empty word, 0 (30_encoding.md R90). -/
def decodeNoBits (cmd : Nat) (i : Instr) : Except DecodeError Instr :=
  if cmd = 0 then .ok i else .error .notOfFormat

/-- The operation offered at a port; "the port a command arrives on tells its format" (30_encoding.md R99). -/
def decode (o : Offer) : Except DecodeError Instr :=
  match o.port with
  | .w => decodeW o.cmd o.bus
  | .r => decodeR o.cmd
  | .k i => decodeK i o.cmd o.bus
  | .hf => decodeHF o.cmd
  | .hk => decodeHK o.cmd
  | .sw out => decodeNoBits o.cmd (decodeSW out)
  | .sr out => decodeNoBits o.cmd (decodeSR out)
  | .xh => decodeNoBits o.cmd (.syncH o.bus)
  | .xt => decodeNoBits o.cmd (.syncT o.bus)

/-- The offer that stands for an operation: the codes of 30_encoding.md, Table for rule R96, with the operand on its
bus (R91) and an ignored bus at 0. -/
def encode : Instr → Offer
  | .send item => ⟨.w, 0b1, item⟩
  | .wIdle => ⟨.w, 0b0, 0⟩
  | .recv => ⟨.r, 0b1, 0⟩
  | .rIdle => ⟨.r, 0b0, 0⟩
  | .ctrNop port => ⟨.k port, 0b000, 0⟩
  | .get port => ⟨.k port, 0b001, 0⟩
  | .increment port => ⟨.k port, 0b010, 0⟩
  | .add port n => ⟨.k port, 0b011, n⟩
  | .swap port v => ⟨.k port, 0b100, v⟩
  | .reset port => ⟨.k port, 0b101, 0⟩
  | .fifoReset => ⟨.hf, 0b00, 0⟩
  | .fifoRun => ⟨.hf, 0b11, 0⟩
  | .ctrReset => ⟨.hk, 0b0, 0⟩
  | .ctrRun => ⟨.hk, 0b1, 0⟩
  | .capacity => ⟨.sw .capacity, 0, 0⟩
  | .lenW => ⟨.sw .wrLen, 0, 0⟩
  | .isEmptyW => ⟨.sw .wrIsEmpty, 0, 0⟩
  | .full => ⟨.sw .wrFull, 0, 0⟩
  | .lenR => ⟨.sr .rdLen, 0, 0⟩
  | .isEmptyR => ⟨.sr .rdIsEmpty, 0, 0⟩
  | .empty => ⟨.sr .rdEmpty, 0, 0⟩
  | .syncH k => ⟨.xh, 0, k⟩
  | .syncT k => ⟨.xt, 0, k⟩

/-- How many command bits a port's format has (30_encoding.md R80). -/
def Port.width : Port → Nat
  | .w => 1
  | .r => 1
  | .k _ => 3
  | .hf => 2
  | .hk => 1
  | .sw _ => 0
  | .sr _ => 0
  | .xh => 0
  | .xt => 0

/-- The agent that drives a port (60_exceptions.md R214; 00_scope.md R18). -/
def Port.driver : Port → Agent
  | .w => .p
  | .r => .c
  | .k i => .k i
  | .hf => .h
  | .hk => .h
  | .sw _ => .p
  | .sr _ => .c
  | .xh => .xh
  | .xt => .xt

/-- The line of a run in which the right agent issues `i`. -/
def lineOf (i : Instr) : Line := ⟨(encode i).port.driver, encode i⟩

/-- Where a bare word of the opcode table is offered. The table gives command bits without the port they arrive on,
and words of different formats coincide (30_encoding.md R80, R99), so a port is chosen: with no bits at all, the
first row of the table that has none (CAPACITY); else the first format in the table's order whose command word it
can be: format W (1 bit), and past it format K on port 0 (3 bits). Operand buses are 0. DESIGN CHOICE, log 3. -/
def offerOfTableWord (nbits w : Nat) : Offer :=
  if nbits = 0 then ⟨.sw .capacity, w, 0⟩
  else if w < 2 then ⟨.w, w, 0⟩
  else ⟨.k 0, w, 0⟩

/-- What the decoder reads from a bare word of the opcode table, offered as `offerOfTableWord` says. -/
def decodeTableWord (nbits w : Nat) : Option Instr :=
  match decode (offerOfTableWord nbits w) with
  | .ok i => some i
  | .error _ => none

end Sys2Proof
end

