-- ==== Sys2Proof/Machine/State.lean ====
section
/-! DEFINITION. The state of one instance as plain data: every item of 10_state.md, Table for rule R20, the reset
release of 70_reset_and_hazards.md R232, the port outputs (30_encoding.md R81, R83, R86), and the environment's
schedule. `head_seen` and `tail_seen` are no fields: "They are not registers" (10_state.md R34); they are functions
of the chains, in Ops.lean. -/

namespace Sys2Proof.Machine

/-- One element of the storage array, "holding an optional value of type T" (10_state.md R36). -/
inductive Cell
  | empty
  | full (d : Nat)
deriving DecidableEq, Repr

/-- The slot array as its `Full` cells, (slot index, item), indices strictly rising; an unlisted cell is `Empty`,
what every cell is after reset (10_state.md R43). Log 19. -/
abbrev Memory := List (Nat × Nat)

/-- The lifecycle of a part (10_state.md R40). -/
inductive Phase
  | inReset
  | live
deriving DecidableEq, Repr

/-- A domain's reset pin with its two-stage reset synchronizer (70_reset_and_hazards.md R232): "a domain is out of
reset at the second rising edge of its clock after its pin went high, and takes commands from that edge on". -/
inductive RstSync
  /-- The pin is low. -/
  | held
  /-- The pin is high, no edge of the domain's clock has come yet. -/
  | noEdge
  /-- The pin is high, one edge has come. -/
  | oneEdge
  /-- Out of reset. -/
  | out
deriving DecidableEq, Repr

/-- The answers of operations (60_exceptions.md, Table for rule R200) and the values status outputs show. -/
inductive Answer
  /-- SEND accepted the item. -/
  | ok
  /-- SEND answered FULL(item): the item, unchanged, is still the producer's (41_fifo_send.md R121). -/
  | fullItem (item : Nat)
  /-- RECV took the item `d`. -/
  | someItem (d : Nat)
  /-- RECV answered NONE. -/
  | noneItem
  /-- GET or SWAP on counter port `port` answered the counter value `v`. -/
  | value (port : Nat) (v : Nat)
  /-- A status output shows `v` (one-bit outputs show 0 or 1). -/
  | shown (v : Nat)
deriving DecidableEq, Repr

/-- Model faults: the model has a meaning for the form, but the state is one the rules never reach
(60_exceptions.md R204). None is hardware behaviour; stopping is safe. -/
inductive Fault
  /-- Raised by SEND when the cell at `head` is not `Empty` (41_fifo_send.md R126). Safe: the hardware would
  overwrite. -/
  | slotOverwrite
  /-- Raised by RECV when the cell at `tail` is `Empty` (42_fifo_receive.md R133). Safe: the hardware would return
  whatever its storage holds. -/
  | slotEmptyRead
  /-- Raised by SEND or RECV when their index is not in `0 .. CAP - 1`, an address the spec says cannot be formed
  (20_memory.md R55). Safe: no AW-bit index is out of range. Log 9. -/
  | noSuchCell
deriving DecidableEq, Repr

/-- Refusals: the model gives the input no meaning (60_exceptions.md R204). All are safe: nothing can be proved of
what comes after. -/
inductive Refusal
  /-- Raised by `exec` for an instruction that has no meaning yet (no arm does so). Safe. -/
  | notModelled (mnemonic : String)
  /-- Raised by a line on port W whose agent is not P (R204, R206). Safe. -/
  | secondProducer
  /-- Raised by a line on port R whose agent is not C (R204, R206). Safe. -/
  | secondConsumer
  /-- Raised by a line on counter port `i` whose agent is not `Ki` (30_encoding.md R86). Safe. Log 14. -/
  | secondCounterClient
  /-- Raised by a line on a reset pin whose agent is not H (60_exceptions.md R214). Safe. Log 14. -/
  | notTheHost
  /-- Raised by a synchronizer step whose agent is not that synchronizer (10_state.md R32, R33). Safe. Log 14. -/
  | notTheSynchronizer
  /-- Raised by a read of a status output by any agent but the one the port belongs to (44_fifo_status.md R165).
  Safe. -/
  | thirdObserver
  /-- Raised by format HF codes `01` and `10`, and at the clocked level by a reset pin that goes low alone while its
  domain runs (70_reset_and_hazards.md R233). Safe. -/
  | partialReset
  /-- Raised by format K codes `110` and `111` (30_encoding.md R97). Safe. -/
  | reservedCounterOp
  /-- Raised by a command other than idle, or a synchronizer step, while the part is `InReset`
  (70_reset_and_hazards.md R237). Safe. Log 10. -/
  | operationInReset
  /-- Raised by SYNC_H or SYNC_T with a draw outside `1 .. lag`: not a step of the synchronizer
  (43_fifo_sync.md R140, R141). Safe. Log 7. -/
  | syncNotEnabled
  /-- Raised by a command on a counter port `i` with `i >= NP` (30_encoding.md R86). Safe. Log 14. -/
  | noSuchCounterPort
  /-- Raised by a word with more bits than its port's format has (30_encoding.md R80). Safe. Log 22. -/
  | notOfFormat
  /-- Raised by a clock edge offered a command on a port of another clock (30_encoding.md R81, R83, R86). Safe.
  Log 16. -/
  | wrongClock
  /-- Raised by one counter edge offered two commands on one port; "One edge takes exactly one command per port"
  (30_encoding.md R103). Safe. Log 16. -/
  | twoCommandsOnePort
deriving DecidableEq, Repr

/-- One entry of the environment's schedule: a step of one agent at the untimed level, or an event of the clocked
level (43_fifo_sync.md R145). Log 2, log 13. -/
inductive Input
  /-- Untimed: one agent issues one operation (or one synchronizer steps). -/
  | line (l : Line)
  /-- `wr_edge` with what stands at port W (R147). -/
  | wrEdge (l : Line)
  /-- `rd_edge` with what stands at port R (R146). -/
  | rdEdge (l : Line)
  /-- A `wr_edge` and an `rd_edge` that coincide, so that each chain samples a register that may be changing:
  `hMix` says for each bit of `head_g`, `tMix` for each bit of `tail_g`, whether the sample takes the new value (1)
  or the old one (0) (R148). Log 15. -/
  | bothEdges (lw lr : Line) (hMix tMix : Nat)
  /-- `ctr_edge` with the commands of the ports that make a call, in the order they take effect
  (45_counter.md R180); a port not listed makes none. Log 16. -/
  | ctrEdge (ls : List Line)
  /-- The FIFO's reset pins take the levels `wr_rst_n`, `rd_rst_n` (70_reset_and_hazards.md R232, R236). Log 12. -/
  | fifoPins (wrRstN rdRstN : Bool)
  /-- The counter's reset pin takes the level `ctr_rst_n` (R232). Log 12. -/
  | ctrPin (ctrRstN : Bool)
deriving DecidableEq, Repr

/-- The whole state of one instance (10_state.md R20), its parameters, its outputs and its schedule. -/
structure State where
  /-- The parameters of the instance, constant (00_scope.md R10). Log 1. -/
  params : Params
  /-- The cells (10_state.md R36). -/
  slots : Memory
  /-- The write index (10_state.md R21). -/
  head : Nat
  /-- The read index (10_state.md R22). -/
  tail : Nat
  /-- `head_g`, the Gray copy of `head` (10_state.md R23). -/
  headG : Nat
  /-- `tail_g`, the Gray copy of `tail` (10_state.md R24). -/
  tailG : Nat
  /-- `hsync[0 .. S-1]`, stage 0 first (10_state.md R32). -/
  hsync : List Nat
  /-- `tsync[0 .. S-1]`, stage 0 first (10_state.md R33). -/
  tsync : List Nat
  /-- The counter (10_state.md R25). -/
  ctr : Nat
  /-- `fifo_phase` (10_state.md R40). -/
  fifoPhase : Phase
  /-- `ctr_phase` (10_state.md R40). -/
  ctrPhase : Phase
  /-- The fault reasons recorded so far, model only (10_state.md R41). Log 8. -/
  faulted : List Fault
  /-- `wr_rst_n` and its synchronizer (70_reset_and_hazards.md R232). -/
  wrRst : RstSync
  /-- `rd_rst_n` and its synchronizer (R232). -/
  rdRst : RstSync
  /-- `ctr_rst_n` and its synchronizer (R232). -/
  ctrRst : RstSync
  /-- Output `wr_ack` (30_encoding.md R81). Log 4. -/
  wrAck : Bool
  /-- Outputs `rd_valid` and, when it is 1, `rd_data` (30_encoding.md R83). Log 4. -/
  rdOut : Option Nat
  /-- Per counter port, outputs `ctr_rvalid_i` and, when it is 1, `ctr_rdata_i` (30_encoding.md R86). Log 4. -/
  ctrOut : List (Option Nat)
  /-- The answers given in the last step, in order (10_state.md R35). Log 4. -/
  answers : List Answer
  /-- The environment's schedule, the next entry first. The model's own field. Log 2. -/
  input : List Input
  /-- The counter free values are drawn with. The model's own field. Log 5. -/
  stamp : Nat
deriving DecidableEq, Repr

/-- An instance with parameters `p` right after its reset (10_state.md R43; 70_reset_and_hazards.md R230, R231),
with its reset pins still low, and nothing offered to it. The model starts here: "before the first reset every
register is unspecified" (R234; log 21). `answers`, `input` and `stamp` at reset are the model's (log 2, 4, 5). -/
def State.resetOf (p : Params) : State :=
  { params := p
    slots := []
    head := 0
    tail := 0
    headG := 0
    tailG := 0
    hsync := List.replicate p.stages 0
    tsync := List.replicate p.stages 0
    ctr := p.init
    fifoPhase := .inReset
    ctrPhase := .inReset
    faulted := []
    wrRst := .held
    rdRst := .held
    ctrRst := .held
    wrAck := false
    rdOut := none
    ctrOut := List.replicate p.ports none
    answers := []
    input := []
    stamp := 0 }

/-- The machine right after reset, for the parameters of `Params.default` (log 1). -/
def State.reset : State := State.resetOf Params.default

end Sys2Proof.Machine
end

