-- ==== Sys2Proof/Machine/Ops.lean ====
section
/-! DEFINITION. The named operations over indices, Gray codes, the slot array, the synchronizer chains and the reset
synchronizers, and how an operation answers. There is no exception to take and none to return from: "The block raises
no exception in the sense of a transfer of control" (60_exceptions.md R200, R212); the shared operations that stand in
their place are `giveAnswer` (an ordinary answer) and `State.recordFault` (model only, R205). -/

namespace Sys2Proof.Machine

/-! ## Derived parameters (00_scope.md R6, R13) -/

/-- AW for a requested size: the least `a` with `2^a >= max(req, 1)` (00_scope.md R6, R13). -/
def awOf (req : Nat) : Nat := if req ≤ 1 then 0 else Nat.log2 (req - 1) + 1

/-- `next_pow2(req)`: CAP for a requested size (00_scope.md R13). -/
def capOf (req : Nat) : Nat := 2 ^ awOf req

/-- AW, the index width (00_scope.md R6). -/
def State.aw (s : State) : Nat := awOf s.params.req

/-- CAP, the number of cells (00_scope.md R6). -/
def State.cap (s : State) : Nat := capOf s.params.req

/-! ## Index arithmetic (00_scope.md R14) -/

/-- `inc(p) = (p + 1) & MASK`, which is `(p + 1) mod CAP` (00_scope.md R14). -/
def inc (cap p : Nat) : Nat := (p + 1) % cap

/-- `dist(a, b) = (b - a) & MASK`, the forward steps from `a` to `b` around the ring (00_scope.md R14): the
subtraction is on integers, so CAP is added before it is taken. -/
def dist (cap a b : Nat) : Nat := (b + (cap - a % cap)) % cap

/-- `a` moved `k` steps forward: `(a + k) & MASK` (43_fifo_sync.md R140). -/
def forward (cap a k : Nat) : Nat := (a + k) % cap

/-! ## Gray code (00_scope.md R16) -/

/-- `bin2gray(b) = b ^ (b >> 1)` (00_scope.md R16). -/
def bin2gray (b : Nat) : Nat := b ^^^ (b >>> 1)

/-- `gray2bin(g) = g ^ (g >> 1) ^ ... ^ (g >> (aw - 1))` on `aw` bits (00_scope.md R16); 0 on no bits. -/
def gray2bin : Nat → Nat → Nat
  | 0, _ => 0
  | n + 1, g => gray2bin n g ^^^ (g >>> n)

/-- What a flip-flop captures of a register that goes from `old` to `new` at its sampling edge: bit `i` of `new`
where bit `i` of `mix` is 1, of `old` where it is 0 (43_fifo_sync.md R148). -/
def sample (old new mix : Nat) : Nat := old ^^^ ((old ^^^ new) &&& mix)

/-! ## The slot array (20_memory.md) -/

/-- The whole cell at slot index `i` (00_scope.md R12). -/
def Memory.read (m : Memory) (i : Nat) : Cell :=
  match m with
  | [] => .empty
  | (a, d) :: rest => if a = i then .full d else Memory.read rest i

/-- The array with cell `i` made `Full(d)`, indices kept rising. -/
def Memory.insert (m : Memory) (i : Nat) (d : Nat) : Memory :=
  match m with
  | [] => [(i, d)]
  | (a, e) :: rest =>
    if i < a then (i, d) :: (a, e) :: rest
    else if i = a then (i, d) :: rest
    else (a, e) :: Memory.insert rest i d

/-- The array with cell `i` made `Empty`: its entry goes. -/
def Memory.erase (m : Memory) (i : Nat) : Memory := m.filter fun e => e.1 != i

/-- Replace the whole cell at index `i` (00_scope.md R12). -/
def Memory.write (m : Memory) (i : Nat) (c : Cell) : Memory :=
  match c with
  | .empty => m.erase i
  | .full d => m.insert i d

/-- The canonical form: indices strictly rising, and no entry for an `Empty` cell (none can be written down). -/
abbrev Memory.wf (m : Memory) : Prop := m.Pairwise fun x y => x.1 < y.1

/-- Access to the cell at index `i`, which is in range (20_memory.md R55, R60); an index outside `0 .. CAP - 1` is
an address that does not exist (log 9). -/
def State.withCell (s : State) (i : Nat) (f : Cell → Host.Outcome State Fault Refusal) :
    Host.Outcome State Fault Refusal :=
  if i < s.cap then f (s.slots.read i) else .fault .noSuchCell

/-! ## The synchronizer chains (10_state.md R32 to R34) -/

/-- `head_seen = gray2bin(hsync[S-1])` (10_state.md R34). -/
def State.headSeen (s : State) : Nat := gray2bin s.aw (s.hsync.getLastD 0)

/-- `tail_seen = gray2bin(tsync[S-1])` (10_state.md R34). -/
def State.tailSeen (s : State) : Nat := gray2bin s.aw (s.tsync.getLastD 0)

/-- One clock edge of a chain: stage 0 takes `v`, stage `i` takes the old stage `i - 1` (43_fifo_sync.md R146,
R147). -/
def shiftIn (v : Nat) (chain : List Nat) : List Nat := (v :: chain).take chain.length

/-- A chain whose last stage, now at `seen`, is brought `k` steps forward (the untimed step of 43_fifo_sync.md R140,
R141, on the registers): every stage the new value has passed takes it too, so that the chain stays in ring order
(R150). DESIGN CHOICE, log 6: the untimed level has no stages. -/
def catchUp (aw cap seen k : Nat) (chain : List Nat) : List Nat :=
  chain.map fun g =>
    if dist cap seen (gray2bin aw g) < k then bin2gray (forward cap seen k) else g

/-! ## Answers and faults -/

/-- The operation ends with the answer `a` (`respond`, 00_scope.md R12). -/
def State.giveAnswer (s : State) (a : Answer) : State := { s with answers := s.answers ++ [a] }

/-- `faulted` with the reason `f` recorded, each reason at most once and in one order, so that equal sets are equal
lists (10_state.md R41: it never shrinks). -/
def recordIn (f : Fault) (l : List Fault) : List Fault :=
  [Fault.slotOverwrite, .slotEmptyRead, .noSuchCell].filter fun g => g = f ∨ g ∈ l

/-- `fault F` "marks the model state faulted with reason F" (00_scope.md R12). -/
def State.recordFault (s : State) (f : Fault) : State := { s with faulted := recordIn f s.faulted }

/-! ## Reset release (70_reset_and_hazards.md R232) -/

/-- A domain's reset after one more edge of its clock. -/
def RstSync.afterEdge : RstSync → RstSync
  | .held => .held
  | .noEdge => .oneEdge
  | .oneEdge => .out
  | .out => .out

/-- A domain's reset after its pin goes high (or stays high). -/
def RstSync.pinHigh : RstSync → RstSync
  | .held => .noEdge
  | r => r

end Sys2Proof.Machine
end

