-- ==== Sys2Proof/Machine/Operands.lean ====
section
/-! DEFINITION. The operand buses (30_encoding.md R91), the cell format at register level (R88), and what each port
shows on its pins (R81, R83, R86). -/

namespace Sys2Proof.Machine

/-- `item = wr_data[DW-1:0]`: the bus has DW wires, so nothing above them arrives (30_encoding.md R81, R91). Log 11. -/
def State.busItem (s : State) (v : Nat) : Nat := v % 2 ^ s.params.dw

/-- `ctr_wdata_i[CW-1:0]`, all CW bits, unsigned (30_encoding.md R86, R91). Log 11. -/
def State.busCount (s : State) (v : Nat) : Nat := v % 2 ^ s.params.cw

/-- A cell as `DW + 1` bits `{valid, data[DW-1:0]}`; `freeData` stands for the data bits of an `Empty` cell, which
have no value (30_encoding.md R88, 10_state.md R36). -/
def Cell.bits (dw : Nat) (freeData : Nat) : Cell → Nat
  | .empty => freeData % 2 ^ dw
  | .full d => 2 ^ dw + d % 2 ^ dw

/-- The cell that `DW + 1` bits stand for: "`valid = 0` is `Empty` whatever the `data` bits hold"
(30_encoding.md R88). -/
def Cell.ofBits (dw : Nat) (b : Nat) : Cell :=
  if b.testBit dw then .full (b % 2 ^ dw) else .empty

/-- The storage of slot `i` at register level, the data bits of an `Empty` cell free (93_implementation_defined.md
U4). -/
def State.slotBits (s : State) (i : Nat) : Nat :=
  (s.slots.read i).bits s.params.dw (Config.freeCellData i s.stamp)

/-- Pin `rd_data`: the item while `rd_valid = 1`, else unspecified, a free value (10_state.md R35). -/
def State.rdDataPin (s : State) : Nat :=
  match s.rdOut with
  | some d => d
  | none => Config.freeRdData s.stamp % 2 ^ s.params.dw

/-- What counter port `i` answered at its last edge, if it did. -/
def State.ctrAnswer (s : State) (i : Nat) : Option Nat := (s.ctrOut[i]?).getD none

/-- Pin `ctr_rdata_i`: the value while `ctr_rvalid_i = 1`, else unspecified, a free value (10_state.md R35). -/
def State.ctrDataPin (s : State) (i : Nat) : Nat :=
  match s.ctrAnswer i with
  | some v => v
  | none => Config.freeCtrData i s.stamp % 2 ^ s.params.cw

/-- Counter port `i` after an operation of its own: `some v` sets `ctr_rvalid_i` with `ctr_rdata_i = v`, `none`
clears it (45_counter.md R171 to R176, R179). -/
def State.setCtrOut (s : State) (i : Nat) (v : Option Nat) : State :=
  { s with ctrOut := s.ctrOut.set i v }

end Sys2Proof.Machine
end

