-- ==== Sys2Proof/Machine/Flags.lean ====
section
/-! DEFINITION. The flags and the status outputs, "each a pure function of state" (10_state.md R29 to R31;
44_fifo_status.md R160 to R166), and the images of the ports' pins. -/

namespace Sys2Proof.Machine

/-- A one-bit output as a value (00_scope.md R11). -/
def bit (b : Bool) : Nat := if b then 1 else 0

/-- `full = (inc(head) == tail_seen)` (10_state.md R29), the output `wr_full`. -/
def State.full (s : State) : Bool := inc s.cap s.head == s.tailSeen

/-- `empty = (head_seen == tail)` (10_state.md R30), the output `rd_empty`. -/
def State.empty (s : State) : Bool := s.headSeen == s.tail

/-- `wr_len = dist(tail_seen, head)` (44_fifo_status.md R161). -/
def State.wrLen (s : State) : Nat := dist s.cap s.tailSeen s.head

/-- `rd_len = dist(tail, head_seen)` (44_fifo_status.md R162). -/
def State.rdLen (s : State) : Nat := dist s.cap s.tail s.headSeen

/-- `wr_is_empty = (wr_len == 0)` (44_fifo_status.md R163). -/
def State.wrIsEmpty (s : State) : Bool := s.wrLen == 0

/-- `rd_is_empty = (rd_len == 0)` (44_fifo_status.md R164). -/
def State.rdIsEmpty (s : State) : Bool := s.rdLen == 0

/-- The output pins of port W (30_encoding.md R81). -/
structure PinsW where
  wrAck : Bool
  wrFull : Bool
  wrLen : Nat
  wrIsEmpty : Bool
  capacity : Nat
deriving DecidableEq, Repr

/-- The output pins of port R (30_encoding.md R83). -/
structure PinsR where
  rdValid : Bool
  rdData : Nat
  rdEmpty : Bool
  rdLen : Nat
  rdIsEmpty : Bool
  capacity : Nat
deriving DecidableEq, Repr

/-- The output pins of one counter port (30_encoding.md R86). -/
structure PinsK where
  ctrRvalid : Bool
  ctrRdata : Nat
deriving DecidableEq, Repr

/-- What port W shows. -/
def State.pinsW (s : State) : PinsW :=
  { wrAck := s.wrAck, wrFull := s.full, wrLen := s.wrLen, wrIsEmpty := s.wrIsEmpty, capacity := s.cap }

/-- What port R shows; `rd_data` is a free value while `rd_valid = 0`. -/
def State.pinsR (s : State) : PinsR :=
  { rdValid := s.rdOut.isSome, rdData := s.rdDataPin, rdEmpty := s.empty, rdLen := s.rdLen
    rdIsEmpty := s.rdIsEmpty, capacity := s.cap }

/-- What counter port `i` shows; `ctr_rdata_i` is a free value while `ctr_rvalid_i = 0`. -/
def State.pinsK (s : State) (i : Nat) : PinsK :=
  { ctrRvalid := (s.ctrAnswer i).isSome, ctrRdata := s.ctrDataPin i }

/-- True occupancy, which no port shows: the occupied range has `dist(tail, head)` cells (00_scope.md R19). -/
def State.occupancy (s : State) : Nat := dist s.cap s.tail s.head

/-- How far `head_seen` is behind `head`, the hidden state of 10_state.md R37. -/
def State.headLag (s : State) : Nat := dist s.cap s.headSeen s.head

/-- How far `tail_seen` is behind `tail` (10_state.md R37). -/
def State.tailLag (s : State) : Nat := dist s.cap s.tailSeen s.tail

end Sys2Proof.Machine
end

