-- ==== Sys2Proof/Machine/Counter.lean ====
section
/-! DEFINITION. The counter's client operations (45_counter.md R171 to R176), each one step of its client, whole
(R178). -/

namespace Sys2Proof.Machine

/-- An operation of the client on counter port `port`: `ctr` becomes `c`, and the port answers `v`, if anything
(45_counter.md R179). A client has a step only while the counter is `Live` (10_state.md R40), and there are only NP
ports (30_encoding.md R86). -/
def counterOp (s : State) (port : Nat) (c : Nat) (v : Option Nat) : Host.Outcome State Fault Refusal :=
  if port < s.params.ports then
    match s.ctrPhase with
    | .inReset => .refused .operationInReset
    | .live =>
      let t := { s with ctr := c }.setCtrOut port v
      .next (match v with
        | some x => t.giveAnswer (.value port x)
        | none => t)
  else .refused .noSuchCounterPort

/-- CTR_NOP (45_counter.md R171): no state change, `ctr_rvalid <- 0`; idle, so it has a step in reset too
(60_exceptions.md R204 refuses a command "other than idle"). -/
def execCtrNop (port : Nat) (s : State) : Host.Outcome State Fault Refusal :=
  if port < s.params.ports then .next (s.setCtrOut port none) else .refused .noSuchCounterPort

/-- GET (45_counter.md R172). -/
def execGet (port : Nat) (s : State) : Host.Outcome State Fault Refusal := counterOp s port s.ctr (some s.ctr)

/-- INCREMENT (45_counter.md R173): `ctr <- (ctr + 1) mod 2^CW`. -/
def execIncrement (port : Nat) (s : State) : Host.Outcome State Fault Refusal :=
  counterOp s port (s.busCount (s.ctr + 1)) none

/-- ADD (45_counter.md R174): `ctr <- (ctr + n) mod 2^CW`. -/
def execAdd (port : Nat) (n : Nat) (s : State) : Host.Outcome State Fault Refusal :=
  counterOp s port (s.busCount (s.ctr + s.busCount n)) none

/-- SWAP (45_counter.md R175): `old <- ctr ; ctr <- v ; respond VALUE(old)`. -/
def execSwap (port : Nat) (v : Nat) (s : State) : Host.Outcome State Fault Refusal :=
  counterOp s port (s.busCount v) (some s.ctr)

/-- RESET (45_counter.md R176): `ctr <- 0`, whatever INIT is. -/
def execReset (port : Nat) (s : State) : Host.Outcome State Fault Refusal := counterOp s port 0 none

end Sys2Proof.Machine
end

