-- ==== Sys2Proof/Machine/HostPins.lean ====
section
/-! DEFINITION. The host's operations: construction, drop and run of each part (40_fifo_construct.md, 45_counter.md
R170, R183). "The two parts have separate reset pins and neither reset touches the other part"
(70_reset_and_hazards.md R231). -/

namespace Sys2Proof.Machine

/-- Every register and output of the FIFO part at its reset value (70_reset_and_hazards.md, Table for rule R230). -/
def State.resetFifo (s : State) : State :=
  { s with
    slots := []
    head := 0
    tail := 0
    headG := 0
    tailG := 0
    hsync := List.replicate s.params.stages 0
    tsync := List.replicate s.params.stages 0
    fifoPhase := .inReset
    wrRst := .held
    rdRst := .held
    wrAck := false
    rdOut := none }

/-- Every register and output of the counter part at its reset value (70_reset_and_hazards.md R231). -/
def State.resetCtr (s : State) : State :=
  { s with
    ctr := s.busCount s.params.init
    ctrPhase := .inReset
    ctrRst := .held
    ctrOut := List.replicate s.params.ports none }

/-- FIFO_RESET (40_fifo_construct.md R110); applied to a `Live` FIFO it is the drop (R112). -/
def execFifoReset (s : State) : Host.Outcome State Fault Refusal := .next s.resetFifo

/-- FIFO_RUN (40_fifo_construct.md R113): `fifo_phase <- Live`, "the instant after which both domains are out of
reset" (70_reset_and_hazards.md R232). -/
def execFifoRun (s : State) : Host.Outcome State Fault Refusal :=
  .next { s with fifoPhase := .live, wrRst := .out, rdRst := .out }

/-- CTR_RESET (45_counter.md R170). -/
def execCtrReset (s : State) : Host.Outcome State Fault Refusal := .next s.resetCtr

/-- CTR_RUN (45_counter.md R183): `ctr_phase <- Live`. -/
def execCtrRun (s : State) : Host.Outcome State Fault Refusal :=
  .next { s with ctrPhase := .live, ctrRst := .out }

end Sys2Proof.Machine
end

