-- ==== Sys2Proof/Machine/Status.lean ====
section
/-! DEFINITION. Reading a status output (44_fifo_status.md): "None changes any state, none can fail, none faults."
They are shown in reset as well, at the values reset gives them (10_state.md R40, R43; log 10). -/

namespace Sys2Proof.Machine

/-- A status output is read: its value is the answer, and nothing changes. -/
def showStatus (s : State) (v : Nat) : Host.Outcome State Fault Refusal := .next (s.giveAnswer (.shown v))

/-- CAPACITY (44_fifo_status.md R160): the number of cells. -/
def execCapacity (s : State) : Host.Outcome State Fault Refusal := showStatus s s.cap

/-- LEN_W (44_fifo_status.md R161). -/
def execLenW (s : State) : Host.Outcome State Fault Refusal := showStatus s s.wrLen

/-- IS_EMPTY_W (44_fifo_status.md R163). -/
def execIsEmptyW (s : State) : Host.Outcome State Fault Refusal := showStatus s (bit s.wrIsEmpty)

/-- FULL (44_fifo_status.md R166). -/
def execFull (s : State) : Host.Outcome State Fault Refusal := showStatus s (bit s.full)

/-- LEN_R (44_fifo_status.md R162). -/
def execLenR (s : State) : Host.Outcome State Fault Refusal := showStatus s s.rdLen

/-- IS_EMPTY_R (44_fifo_status.md R164). -/
def execIsEmptyR (s : State) : Host.Outcome State Fault Refusal := showStatus s (bit s.rdIsEmpty)

/-- EMPTY (44_fifo_status.md R166). -/
def execEmpty (s : State) : Host.Outcome State Fault Refusal := showStatus s (bit s.empty)

end Sys2Proof.Machine
end

