-- ==== Sys2Proof/Machine/Fifo.lean ====
section
/-! DEFINITION. The producer's and the consumer's operations (41_fifo_send.md, 42_fifo_receive.md). -/

namespace Sys2Proof.Machine

/-- A command other than idle at a FIFO port, or a synchronizer step, has a step only while the FIFO is `Live`
(10_state.md R40; 60_exceptions.md R204, `OperationInReset`). It asks the phase alone: in a run that mixes the two levels,
after a staggered release, an untimed step of the late domain's agent is taken although that domain's pin may be low.
DESIGN CHOICE, unsafe for a claim that such a step completes, log 13. -/
def whileFifoLive (s : State) (next : Host.Outcome State Fault Refusal) : Host.Outcome State Fault Refusal :=
  match s.fifoPhase with
  | .live => next
  | .inReset => .refused .operationInReset

/-- Port W's answer to the command of this edge: `wr_ack` (30_encoding.md R85). -/
def State.ackW (s : State) (b : Bool) : State := { s with wrAck := b }

/-- Port R's answer to the command of this edge: `rd_valid` with `rd_data` (30_encoding.md R85). -/
def State.answerR (s : State) (v : Option Nat) : State := { s with rdOut := v }

/-- SEND steps 5 and 6: the item goes into cell `head`, and `next_head` is published with its Gray copy
(41_fifo_send.md R120). -/
def State.publishHead (s : State) (item : Nat) : State :=
  { s with
    slots := s.slots.write s.head (.full item)
    head := inc s.cap s.head
    headG := bin2gray (inc s.cap s.head) }

/-- RECV step 4: cell `tail` is marked empty, and `next_tail` is published with its Gray copy
(42_fifo_receive.md R130). -/
def State.publishTail (s : State) : State :=
  { s with
    slots := s.slots.write s.tail .empty
    tail := inc s.cap s.tail
    tailG := bin2gray (inc s.cap s.tail) }

/-- SEND (41_fifo_send.md R120): FULL(item) when `inc(head) == tail_seen`, else the item is stored and published. -/
def execSend (item : Nat) (s : State) : Host.Outcome State Fault Refusal :=
  whileFifoLive s <|
    if s.full then
      .next ((s.ackW false).giveAnswer (.fullItem (s.busItem item)))
    else
      s.withCell s.head fun c =>
        match c with
        | .full _ => .fault .slotOverwrite
        | .empty => .next (((s.publishHead (s.busItem item)).ackW true).giveAnswer .ok)

/-- W_IDLE (41_fifo_send.md R124): no state changes, `wr_ack <- 0`. -/
def execWIdle (s : State) : Host.Outcome State Fault Refusal := .next (s.ackW false)

/-- RECV (42_fifo_receive.md R130): NONE when `head_seen == tail`, else the item of cell `tail` is taken. -/
def execRecv (s : State) : Host.Outcome State Fault Refusal :=
  whileFifoLive s <|
    if s.empty then
      .next ((s.answerR none).giveAnswer .noneItem)
    else
      s.withCell s.tail fun c =>
        match c with
        | .empty => .fault .slotEmptyRead
        | .full d => .next ((s.publishTail.answerR (some d)).giveAnswer (.someItem d))

/-- R_IDLE (42_fifo_receive.md R134): no state changes, `rd_valid <- 0`. -/
def execRIdle (s : State) : Host.Outcome State Fault Refusal := .next (s.answerR none)

end Sys2Proof.Machine
end

