-- ==== Sys2Proof/Machine/Sync.lean ====
section
/-! DEFINITION. The untimed steps of the two synchronizers (43_fifo_sync.md R140, R141). -/

namespace Sys2Proof.Machine

/-- A synchronizer step of draw `k` over a lag of `lag`: it exists for `1 <= k <= lag` (43_fifo_sync.md R140, R141);
any other draw "is not a step" (95_test_vectors.md V-SYNC). Log 7. -/
def syncStep (s : State) (k lag : Nat) (next : State) : Host.Outcome State Fault Refusal :=
  whileFifoLive s <|
    if 1 ≤ k ∧ k ≤ lag then .next next else .refused .syncNotEnabled

/-- SYNC_H (43_fifo_sync.md R140): `head_seen <- (head_seen + k) & MASK`, on the chain it is read from. -/
def execSyncH (k : Nat) (s : State) : Host.Outcome State Fault Refusal :=
  syncStep s k s.headLag { s with hsync := catchUp s.aw s.cap s.headSeen k s.hsync }

/-- SYNC_T (43_fifo_sync.md R141): `tail_seen <- (tail_seen + k) & MASK`, on the chain it is read from. -/
def execSyncT (k : Nat) (s : State) : Host.Outcome State Fault Refusal :=
  syncStep s k s.tailLag { s with tsync := catchUp s.aw s.cap s.tailSeen k s.tsync }

end Sys2Proof.Machine
end

