-- ==== Sys2Proof/Machine/Dispatch.lean ====
section
/-! DEFINITION. One arm per operation of spec/opcode_table.json. -/

namespace Sys2Proof.Machine

def exec (i : Instr) (s : State) : Host.Outcome State Fault Refusal :=
  match i with
  -- port W (41_fifo_send.md)
  | .send item => Sys2Proof.Machine.execSend item s
  | .wIdle => Sys2Proof.Machine.execWIdle s
  -- port R (42_fifo_receive.md)
  | .recv => Sys2Proof.Machine.execRecv s
  | .rIdle => Sys2Proof.Machine.execRIdle s
  -- counter ports (45_counter.md)
  | .ctrNop port => Sys2Proof.Machine.execCtrNop port s
  | .get port => Sys2Proof.Machine.execGet port s
  | .increment port => Sys2Proof.Machine.execIncrement port s
  | .add port n => Sys2Proof.Machine.execAdd port n s
  | .swap port v => Sys2Proof.Machine.execSwap port v s
  | .reset port => Sys2Proof.Machine.execReset port s
  -- reset pins (40_fifo_construct.md, 45_counter.md)
  | .fifoReset => Sys2Proof.Machine.execFifoReset s
  | .fifoRun => Sys2Proof.Machine.execFifoRun s
  | .ctrReset => Sys2Proof.Machine.execCtrReset s
  | .ctrRun => Sys2Proof.Machine.execCtrRun s
  -- status outputs (44_fifo_status.md)
  | .capacity => Sys2Proof.Machine.execCapacity s
  | .lenW => Sys2Proof.Machine.execLenW s
  | .isEmptyW => Sys2Proof.Machine.execIsEmptyW s
  | .full => Sys2Proof.Machine.execFull s
  | .lenR => Sys2Proof.Machine.execLenR s
  | .isEmptyR => Sys2Proof.Machine.execIsEmptyR s
  | .empty => Sys2Proof.Machine.execEmpty s
  -- synchronizers (43_fifo_sync.md)
  | .syncH k => Sys2Proof.Machine.execSyncH k s
  | .syncT k => Sys2Proof.Machine.execSyncT k s

end Sys2Proof.Machine
end

