-- ==== Sys2Proof/Machine/Roles.lean ====
section
/-! DEFINITION. Who may drive which port (60_exceptions.md R214; 00_scope.md R18). The hardware does not check; the
model "has exactly one P and one C and refuses any other arrangement" (60_exceptions.md R206). -/

namespace Sys2Proof.Machine

/-- Why `agent` may not act at `port`, if it may not (60_exceptions.md R204, R206, R214; 44_fifo_status.md R165;
log 14). -/
def roleRefusal (agent : Agent) (port : Port) : Option Refusal :=
  if agent = port.driver then none
  else
    match port with
    | .w => some .secondProducer
    | .r => some .secondConsumer
    | .k _ => some .secondCounterClient
    | .hf => some .notTheHost
    | .hk => some .notTheHost
    | .sw _ => some .thirdObserver
    | .sr _ => some .thirdObserver
    | .xh => some .notTheSynchronizer
    | .xt => some .notTheSynchronizer

/-- The refusal a decoding error stands for (60_exceptions.md R204). -/
def refusalOf : DecodeError → Refusal
  | .reservedCounterOp => .reservedCounterOp
  | .partialReset => .partialReset
  | .notOfFormat => .notOfFormat

/-- The operation a line stands for, or why it stands for none: another agent than the port's own issues it, or its
word is reserved or not of the port's format (60_exceptions.md R204). Asked of every line, at whatever level and in
whatever phase it is offered (30_encoding.md R97, 60_exceptions.md R206). -/
def lineOperation (l : Line) : Except Refusal Instr :=
  match roleRefusal l.agent l.offer.port with
  | some r => .error r
  | none =>
    match decode l.offer with
    | .error e => .error (refusalOf e)
    | .ok i => .ok i

/-- The counter port a line is offered on, if it is one. -/
def counterPort : Line → Option Nat
  | ⟨_, ⟨.k i, _, _⟩⟩ => some i
  | _ => none

end Sys2Proof.Machine
end

