-- ==== Sys2Proof/Machine/Clock.lean ====
section
/-! DEFINITION. Running what is offered: one line at the untimed level (30_encoding.md R100), and the events of the
clocked level (43_fifo_sync.md R145 to R148; 45_counter.md R180; 70_reset_and_hazards.md R232, R236, R237). -/

namespace Sys2Proof.Machine

/-- Go on from the next state, or stop as it stopped. -/
def andThen (o : Host.Outcome State Fault Refusal) (f : State → Host.Outcome State Fault Refusal) :
    Host.Outcome State Fault Refusal :=
  match o with
  | .next s => f s
  | .fault e => .fault e
  | .refused r => .refused r

/-- One agent issues what stands at a port: the role is checked, the word decoded, the operation taken. -/
def runLine (l : Line) (s : State) : Host.Outcome State Fault Refusal :=
  match lineOperation l with
  | .error r => .refused r
  | .ok i => exec i s

/-- A command at an edge of a domain still in reset is ignored (60_exceptions.md R208; 70_reset_and_hazards.md R237).
Only a command is: what is refused in every state (another agent, a reserved code, a word of another format, a counter
port that does not exist) is refused here as well (30_encoding.md R97; 60_exceptions.md R206). DEDUCED, safe, log 10. -/
def ignoreLine (l : Line) (s : State) : Host.Outcome State Fault Refusal :=
  match lineOperation l with
  | .error r => .refused r
  | .ok _ =>
    match counterPort l with
    | some p => if p < s.params.ports then .next s else .refused .noSuchCounterPort
    | none => .next s

/-- Several lines one after another, each as `f` says (45_counter.md R180). -/
def eachLine (f : Line → State → Host.Outcome State Fault Refusal) :
    List Line → State → Host.Outcome State Fault Refusal
  | [], s => .next s
  | l :: ls, s => andThen (f l s) (eachLine f ls)

/-- The write domain's reset after one edge of `wr_clk`: the first domain to leave reset makes the FIFO `Live`, so
that the run is the untimed one "with FIFO_RUN placed at the earlier release" (70_reset_and_hazards.md R236). -/
def State.wrResetEdge (s : State) : State :=
  match s.wrRst with
  | .oneEdge => { s with wrRst := .out, fifoPhase := .live }
  | r => { s with wrRst := r.afterEdge }

/-- The read domain's reset after one edge of `rd_clk`. -/
def State.rdResetEdge (s : State) : State :=
  match s.rdRst with
  | .oneEdge => { s with rdRst := .out, fifoPhase := .live }
  | r => { s with rdRst := r.afterEdge }

/-- The counter's reset after one edge of `ctr_clk`. -/
def State.ctrResetEdge (s : State) : State :=
  match s.ctrRst with
  | .oneEdge => { s with ctrRst := .out, ctrPhase := .live }
  | r => { s with ctrRst := r.afterEdge }

/-- The command of a `wr_edge`. In a domain still in reset it is ignored, the answer pin at its reset value
(60_exceptions.md R208; 70_reset_and_hazards.md R237; log 10). -/
def wrCommand (l : Line) (s : State) : Host.Outcome State Fault Refusal :=
  if l.offer.port = .w then
    if s.wrResetEdge.wrRst = .out then runLine l s.wrResetEdge else ignoreLine l (s.wrResetEdge.ackW false)
  else .refused .wrongClock

/-- The command of a `rd_edge`, likewise. -/
def rdCommand (l : Line) (s : State) : Host.Outcome State Fault Refusal :=
  if l.offer.port = .r then
    if s.rdResetEdge.rdRst = .out then runLine l s.rdResetEdge else ignoreLine l (s.rdResetEdge.answerR none)
  else .refused .wrongClock

/-- The tail synchronizer at a `wr_edge`: it shifts, taking `v` in at stage 0 (43_fifo_sync.md R147), unless its
domain is in reset. -/
def State.shiftTail (s : State) (v : Nat) : State :=
  if s.wrRst = .out then { s with tsync := shiftIn v s.tsync } else s

/-- The head synchronizer at a `rd_edge`: it shifts, taking `v` in at stage 0 (43_fifo_sync.md R146), unless its
domain is in reset. -/
def State.shiftHead (s : State) (v : Nat) : State :=
  if s.rdRst = .out then { s with hsync := shiftIn v s.hsync } else s

/-- `wr_edge` (43_fifo_sync.md R147): the command acts on `tail_seen` from before the edge, and the chain shifts with
the old `tail_g`. -/
def wrEdge (l : Line) (s : State) : Host.Outcome State Fault Refusal :=
  andThen (wrCommand l s) fun t => .next (t.shiftTail s.tailG)

/-- `rd_edge` (43_fifo_sync.md R146): the command acts on `head_seen` from before the edge, and the chain shifts with
the old `head_g`. -/
def rdEdge (l : Line) (s : State) : Host.Outcome State Fault Refusal :=
  andThen (rdCommand l s) fun t => .next (t.shiftHead s.headG)

/-- A `wr_edge` and an `rd_edge` that coincide: each command reads the values from before, in either order
(60_exceptions.md R209), and each chain samples a Gray register that may be changing (43_fifo_sync.md R148). -/
def bothEdges (lw lr : Line) (hMix tMix : Nat) (s : State) : Host.Outcome State Fault Refusal :=
  andThen (rdCommand lr s) fun t =>
    andThen (wrCommand lw t) fun u =>
      .next ((u.shiftTail (sample s.tailG u.tailG tMix)).shiftHead (sample s.headG u.headG hMix))

/-- What the commands of a `ctr_edge` find: the counter's reset after the edge, and no port answering yet, so that a port
that makes no call answers nothing (45_counter.md R171). -/
def State.ctrEdgeStart (s : State) : State :=
  { s.ctrResetEdge with ctrOut := List.replicate s.params.ports none }

/-- `ctr_edge`: the commands take effect one after another in the order listed (45_counter.md R180), at most one for
each port (30_encoding.md R103); every port that makes no call answers nothing (45_counter.md R171); in reset all are
ignored (60_exceptions.md R208; 70_reset_and_hazards.md R237; log 10). -/
def ctrEdge (ls : List Line) (s : State) : Host.Outcome State Fault Refusal :=
  if ls.all fun l => (counterPort l).isSome then
    if (ls.filterMap counterPort).Nodup then
      if s.ctrEdgeStart.ctrRst = .out then eachLine runLine ls s.ctrEdgeStart
      else eachLine ignoreLine ls s.ctrEdgeStart
    else .refused .twoCommandsOnePort
  else .refused .wrongClock

/-- The FIFO's reset pins take new levels. Both low is FIFO_RESET, at once, whatever the clocks do
(70_reset_and_hazards.md R232). A pin that goes high starts its domain's release; the two may rise at different times
(R236). A pin that goes low alone while its domain runs, or is being released, is a partial reset (R233). -/
def fifoPins (wrRstN rdRstN : Bool) (s : State) : Host.Outcome State Fault Refusal :=
  if !wrRstN && !rdRstN then execFifoReset s
  else if (!wrRstN && s.wrRst != .held) || (!rdRstN && s.rdRst != .held) then .refused .partialReset
  else
    .next { s with
      wrRst := if wrRstN then s.wrRst.pinHigh else s.wrRst
      rdRst := if rdRstN then s.rdRst.pinHigh else s.rdRst }

/-- The counter's reset pin takes a new level (70_reset_and_hazards.md R231, R232). -/
def ctrPin (ctrRstN : Bool) (s : State) : Host.Outcome State Fault Refusal :=
  if ctrRstN then .next { s with ctrRst := s.ctrRst.pinHigh } else execCtrReset s

/-- One entry of the schedule. -/
def runInput (x : Input) (s : State) : Host.Outcome State Fault Refusal :=
  match x with
  | .line l => runLine l s
  | .wrEdge l => wrEdge l s
  | .rdEdge l => rdEdge l s
  | .bothEdges lw lr hMix tMix => bothEdges lw lr hMix tMix s
  | .ctrEdge ls => ctrEdge ls s
  | .fifoPins wr rd => fifoPins wr rd s
  | .ctrPin v => ctrPin v s

/-- The state in which one entry of the schedule is run: the entry is taken off, no answer has been given yet, and
free values are drawn anew. -/
def State.consume (s : State) (rest : List Input) : State :=
  { s with input := rest, answers := [], stamp := s.stamp + 1 }

/-- The bare word of an opcode-table row offered by the agent of its port (log 3). -/
def lineOfTableWord (nbits w : Nat) : Line :=
  ⟨(offerOfTableWord nbits w).port.driver, offerOfTableWord nbits w⟩

/-- `s` with both parts out of reset, as FIFO_RUN and CTR_RUN leave them: what a port command needs to be taken
(10_state.md R40). -/
def State.outOfReset (s : State) : State :=
  { s with
    fifoPhase := .live, ctrPhase := .live, wrRst := .out, rdRst := .out, ctrRst := .out }

end Sys2Proof.Machine
end

