-- ==== Sys2Proof/Machine/Step.lean ====
section
/-! DEFINITION. One step of the machine: it takes the next entry of the schedule, one operation of one agent or one
clock edge (10_state.md R28: no program counter, no fetch; "what orders operations is therefore the order of clock
edges within one port and the two indices across ports"). -/

namespace Sys2Proof.Machine

/-- One step. A faulted state is never final and has no meaning any more: the machine stops there with the reason
recorded (60_exceptions.md R205; log 8). With nothing offered, nothing happens (70_reset_and_hazards.md R235). -/
def step (s : State) : Host.Outcome State Fault Refusal :=
  match s.faulted with
  | f :: _ => .fault f
  | [] =>
    match s.input with
    | [] => .next (s.consume [])
    | x :: rest => runInput x (s.consume rest)

/-- The run with its faults recorded: "`fault F` marks the model state faulted with reason F" (00_scope.md R12,
10_state.md R41), and "A refusal is kept for the whole run" (60_exceptions.md R205): the refused entry stays next. -/
def recordedStep (s : State) : State :=
  match step s with
  | .next t => t
  | .fault f => s.recordFault f
  | .refused _ => s

/-- `s` about to run the instruction of a bare word of the opcode table: there is no fetch, so the word is offered at
its port as the next entry of the schedule, with both parts out of reset, since "P, C and every `Ki` have no step
while their part is `InReset`" (70_reset_and_hazards.md R237). DESIGN CHOICE, log 3. -/
def State.withFetchWord (s : State) (nbits w : Nat) : State :=
  { s.outOfReset with input := .line (lineOfTableWord nbits w) :: s.input }

end Sys2Proof.Machine
end

