-- ==== Sys2Proof/Safety.lean ====
section
/-! DEFINITION. What counts as a sound state and a safe run, in the terms claims use: the invariants of 10_state.md
R23, R24, R38 to R40 and 43_fifo_sync.md R150, what the FIFO holds (20_memory.md R66, R67), what a group of
operations leaves alone, the untimed view of a state (10_state.md R44), and weak fairness (43_fifo_sync.md R142). -/

namespace Sys2Proof.Machine

/-! ## Invariants -/

/-- Ring order (10_state.md R38): "with `a = dist(tail_seen, tail)`, `b = dist(tail, head_seen)`,
`c = dist(head_seen, head)`, it holds that `a + b + c <= CAP - 1`". -/
abbrev State.RingOrder (s : State) : Prop :=
  dist s.cap s.tailSeen s.tail + dist s.cap s.tail s.headSeen + dist s.cap s.headSeen s.head ≤ s.cap - 1

/-- Occupancy (10_state.md R39): "cell `i` is `Full` exactly when `dist(tail, i) < dist(tail, head)`". -/
abbrev State.Occupied (s : State) : Prop :=
  ∀ i < s.cap, (s.slots.read i ≠ .empty ↔ dist s.cap s.tail i < dist s.cap s.tail s.head)

/-- How far each stage of a chain is behind the index it carries, stage 0 first. -/
def lags (aw cap : Nat) (chain : List Nat) (index : Nat) : List Nat :=
  chain.map fun g => dist cap (gray2bin aw g) index

/-- Chain order (43_fifo_sync.md R150): from the last stage to stage 0 and then the source register, never a step
backwards; so no stage is further behind the source than a later one. -/
abbrev ChainOrdered (aw cap : Nat) (chain : List Nat) (index : Nat) : Prop :=
  (lags aw cap chain index).Pairwise (· ≤ ·)

/-- Every register and output of the FIFO part stands at its reset value (70_reset_and_hazards.md, Table for rule
R230). -/
abbrev State.FifoAtReset (s : State) : Prop :=
  s.slots = [] ∧ s.head = 0 ∧ s.tail = 0 ∧ s.headG = 0 ∧ s.tailG = 0 ∧
    s.hsync = List.replicate s.params.stages 0 ∧ s.tsync = List.replicate s.params.stages 0 ∧
    s.wrAck = false ∧ s.rdOut = none

/-- The invariant of the block: what holds at reset and after every step. -/
structure Inv (s : State) : Prop where
  /-- The parameters are in range (00_scope.md R10). -/
  params_wf : s.params.wf
  /-- The slot array is in canonical form. -/
  slots_wf : s.slots.wf
  /-- Only the CAP cells exist, and each holds DW bits (10_state.md R36; 20_memory.md R60). -/
  slots_fit : ∀ e ∈ s.slots, e.1 < s.cap ∧ fits s.params.dw e.2
  /-- `head` has AW bits (10_state.md R21). -/
  head_lt : s.head < s.cap
  /-- `tail` has AW bits (10_state.md R22). -/
  tail_lt : s.tail < s.cap
  /-- "`head_g` ... holds `bin2gray(head)` at all times" (10_state.md R23). -/
  headG_eq : s.headG = bin2gray s.head
  /-- "`tail_g` ... holds `bin2gray(tail)` at all times" (10_state.md R24). -/
  tailG_eq : s.tailG = bin2gray s.tail
  /-- `hsync` has S stages (10_state.md R32). -/
  hsync_length : s.hsync.length = s.params.stages
  /-- `tsync` has S stages (10_state.md R33). -/
  tsync_length : s.tsync.length = s.params.stages
  /-- Every stage of `hsync` has AW bits. -/
  hsync_lt : ∀ g ∈ s.hsync, g < s.cap
  /-- Every stage of `tsync` has AW bits. -/
  tsync_lt : ∀ g ∈ s.tsync, g < s.cap
  /-- `hsync` and `head` are in chain order (43_fifo_sync.md R150). -/
  hsync_ordered : ChainOrdered s.aw s.cap s.hsync s.head
  /-- `tsync` and `tail` are in chain order (43_fifo_sync.md R150). -/
  tsync_ordered : ChainOrdered s.aw s.cap s.tsync s.tail
  /-- Ring order (10_state.md R38). -/
  ring : s.RingOrder
  /-- Occupancy (10_state.md R39). -/
  occupied : s.Occupied
  /-- "While a part is `InReset` ... its registers hold their reset values" (10_state.md R40). -/
  fifo_reset : s.fifoPhase = .inReset → s.FifoAtReset
  /-- A write domain out of reset has made the FIFO `Live` (70_reset_and_hazards.md R236). -/
  wr_live : s.wrRst = .out → s.fifoPhase = .live
  /-- A read domain out of reset has made the FIFO `Live` (70_reset_and_hazards.md R236). -/
  rd_live : s.rdRst = .out → s.fifoPhase = .live
  /-- `rd_data` has DW bits (30_encoding.md R83). -/
  rdOut_fits : ∀ d, s.rdOut = some d → fits s.params.dw d
  /-- `ctr` has CW bits (10_state.md R25). -/
  ctr_fits : fits s.params.cw s.ctr
  /-- While the counter is `InReset` it holds INIT (10_state.md R40). -/
  ctr_reset : s.ctrPhase = .inReset → s.ctr = s.params.init
  /-- A counter domain out of reset is `Live`. -/
  ctr_live : s.ctrRst = .out → s.ctrPhase = .live
  /-- There are NP counter ports (30_encoding.md R86). -/
  ctrOut_length : s.ctrOut.length = s.params.ports

/-! ## What the FIFO holds -/

/-- The item in slot `i`, if it is `Full`. -/
def State.itemAt (s : State) (i : Nat) : Option Nat :=
  match s.slots.read i with
  | .empty => none
  | .full d => some d

/-- The stored items, oldest first: the occupied range `tail, inc(tail), ...` up to but not including `head`
(00_scope.md R19). -/
def State.contents (s : State) : List Nat :=
  (List.range s.occupancy).filterMap fun j => s.itemAt (forward s.cap s.tail j)

/-- The answers an operation that took `s` to `t` gave. -/
def newAnswers (s t : State) : List Answer := t.answers.drop s.answers.length

/-- The item `i` put into the FIFO when it took `s` to `t`: that of a SEND answered OK. -/
def sentBy (i : Instr) (s t : State) : List Nat :=
  match i, newAnswers s t with
  | .send item, [.ok] => [s.busItem item]
  | _, _ => []

/-- The items taken out of the FIFO from `s` to `t`: those of answers SOME. -/
def receivedBy (s t : State) : List Nat :=
  (newAnswers s t).filterMap fun a =>
    match a with
    | .someItem d => some d
    | _ => none

/-- A run of operations at the untimed level: the state it ends in, the items of its successful SENDs in the order P
performed them, and the items of its successful RECVs in the order C performed them (20_memory.md R66). None when an
operation of it has no next state. -/
def traffic : List Instr → State → Option (State × List Nat × List Nat)
  | [], s => some (s, [], [])
  | i :: is, s =>
    match exec i s with
    | .next t =>
      match traffic is t with
      | some (u, sent, received) => some (u, sentBy i s t ++ sent, receivedBy s t ++ received)
      | none => none
    | .fault _ => none
    | .refused _ => none

/-- The state a run of operations at the untimed level ends in, if every one has a next state. -/
def execAll : List Instr → State → Option State
  | [], s => some s
  | i :: is, s =>
    match exec i s with
    | .next t => execAll is t
    | .fault _ => none
    | .refused _ => none

/-! ## What an operation leaves alone -/

/-- No cell changed: every one reads as before. -/
def SameCells (s t : State) : Prop := ∀ i, t.slots.read i = s.slots.read i

/-- No cell but `i` changed. -/
def SameCellsBut (s t : State) (i : Nat) : Prop := ∀ j, j ≠ i → t.slots.read j = s.slots.read j

/-- The registers of the write domain: `head`, `head_g`, `tsync` (70_reset_and_hazards.md R250). -/
def SameWriteRegs (s t : State) : Prop := t.head = s.head ∧ t.headG = s.headG ∧ t.tsync = s.tsync

/-- The registers of the read domain: `tail`, `tail_g`, `hsync` (70_reset_and_hazards.md R250). -/
def SameReadRegs (s t : State) : Prop := t.tail = s.tail ∧ t.tailG = s.tailG ∧ t.hsync = s.hsync

/-- The FIFO's phase and resets. -/
def SameFifoLife (s t : State) : Prop := t.fifoPhase = s.fifoPhase ∧ t.wrRst = s.wrRst ∧ t.rdRst = s.rdRst

/-- The counter part: register, phase, reset and every port's answer. -/
def SameCounter (s t : State) : Prop :=
  t.ctr = s.ctr ∧ t.ctrPhase = s.ctrPhase ∧ t.ctrRst = s.ctrRst ∧ t.ctrOut = s.ctrOut

/-- The whole FIFO part, with its outputs. -/
def SameFifo (s t : State) : Prop :=
  SameCells s t ∧ SameWriteRegs s t ∧ SameReadRegs s t ∧ SameFifoLife s t ∧ t.wrAck = s.wrAck ∧ t.rdOut = s.rdOut

/-- What no operation of any port changes: the parameters, the recorded faults, the schedule, the stamp of free
values. -/
def SameFrame (s t : State) : Prop :=
  t.params = s.params ∧ t.faulted = s.faulted ∧ t.input = s.input ∧ t.stamp = s.stamp

/-! ## The untimed view (10_state.md R44) -/

/-- The architectural state: "`(slots, head, tail, head_seen, tail_seen, ctr, fifo_phase, ctr_phase, faulted)`"
(10_state.md R44). -/
structure Arch where
  slots : Memory
  head : Nat
  tail : Nat
  headSeen : Nat
  tailSeen : Nat
  ctr : Nat
  fifoPhase : Phase
  ctrPhase : Phase
  faulted : List Fault
deriving DecidableEq, Repr

/-- A register-level state read through R34. -/
def State.arch (s : State) : Arch :=
  { slots := s.slots, head := s.head, tail := s.tail, headSeen := s.headSeen, tailSeen := s.tailSeen
    ctr := s.ctr, fifoPhase := s.fifoPhase, ctrPhase := s.ctrPhase, faulted := s.faulted }

/-- XH takes the step SYNC_H `k`, or no step when `k = 0`: "an `rd_edge` that leaves it unchanged is no step"
(43_fifo_sync.md R151). -/
def moveHead (k : Nat) (s : State) : Host.Outcome State Fault Refusal :=
  if k = 0 then .next s else exec (.syncH k) s

/-- XT takes the step SYNC_T `k`, or no step when `k = 0` (43_fifo_sync.md R151). -/
def moveTail (k : Nat) (s : State) : Host.Outcome State Fault Refusal :=
  if k = 0 then .next s else exec (.syncT k) s

/-! ## The counter's total order (20_memory.md R72; 45_counter.md R180) -/

/-- What `ctr` holds after an operation that finds `c` in it (45_counter.md R171 to R176). -/
def valueAfter (cw c : Nat) : Instr → Nat
  | .increment _ => (c + 1) % 2 ^ cw
  | .add _ n => (c + n) % 2 ^ cw
  | .swap _ v => v
  | .reset _ => 0
  | .ctrNop _ | .get _ => c
  | .send _ | .wIdle | .recv | .rIdle | .fifoReset | .fifoRun | .ctrReset | .ctrRun => c
  | .capacity | .lenW | .isEmptyW | .full | .lenR | .isEmptyR | .empty | .syncH _ | .syncT _ => c

/-- What `ctr` holds after several operations, one after another. -/
def valueAfterAll (cw c : Nat) (is : List Instr) : Nat := is.foldl (valueAfter cw) c

/-- The value an operation answers when it finds `c`, if it answers one: "Only GET and SWAP return a value"
(45_counter.md R179). -/
def valueAnswered (c : Nat) : Instr → Option Nat
  | .get _ => some c
  | .swap _ _ => some c
  | .ctrNop _ | .increment _ | .add _ _ | .reset _ => none
  | .send _ | .wIdle | .recv | .rIdle | .fifoReset | .fifoRun | .ctrReset | .ctrRun => none
  | .capacity | .lenW | .isEmptyW | .full | .lenR | .isEmptyR | .empty | .syncH _ | .syncT _ => none

/-- The answers of several operations, one after another, each with the port it is given on. -/
def answersOfAll (cw : Nat) : Nat → List Instr → List Answer
  | _, [] => []
  | c, i :: is =>
    (match counterPort (lineOf i), valueAnswered c i with
      | some p, some v => [.value p v]
      | _, _ => []) ++ answersOfAll cw (valueAfter cw c i) is

/-! ## Endless runs (00_scope.md R18) and fairness (43_fifo_sync.md R142) -/

/-- `s` with `x` offered next, or with nothing offered. What State holds of the schedule is finite, so in an endless
run the environment goes on offering from outside. Log 17. -/
def State.offered (s : State) (x : Option Input) : State := { s with input := x.toList }

/-- An endless run: at step `n` the environment offers `env n`, or nothing. -/
def IsRun (env : Nat → Option Input) (run : Nat → State) : Prop :=
  ∀ n, step ((run n).offered (env n)) = .next (run (n + 1))

/-- The event is, or contains, a `wr_edge` (43_fifo_sync.md R145). -/
def Input.isWrEdge : Input → Bool
  | .wrEdge _ => true
  | .bothEdges _ _ _ _ => true
  | .line _ => false
  | .rdEdge _ => false
  | .ctrEdge _ => false
  | .fifoPins _ _ => false
  | .ctrPin _ => false

/-- The event is, or contains, an `rd_edge` (43_fifo_sync.md R145). -/
def Input.isRdEdge : Input → Bool
  | .rdEdge _ => true
  | .bothEdges _ _ _ _ => true
  | .line _ => false
  | .wrEdge _ => false
  | .ctrEdge _ => false
  | .fifoPins _ _ => false
  | .ctrPin _ => false

/-- The event is a `ctr_edge` (43_fifo_sync.md R145). -/
def Input.isCtrEdge : Input → Bool
  | .ctrEdge _ => true
  | .line _ => false
  | .wrEdge _ => false
  | .rdEdge _ => false
  | .bothEdges _ _ _ _ => false
  | .fifoPins _ _ => false
  | .ctrPin _ => false

/-- `what` is offered again and again. -/
def Recurs (env : Nat → Option Input) (what : Input → Bool) : Prop :=
  ∀ n, ∃ m, n ≤ m ∧ ∃ x, env m = some x ∧ what x = true

/-- The clocks run: "provided each kind occurs again and again" (43_fifo_sync.md R145). -/
def ClocksRun (env : Nat → Option Input) : Prop :=
  Recurs env Input.isWrEdge ∧ Recurs env Input.isRdEdge ∧ Recurs env Input.isCtrEdge

/-- A run of the clocked level: "a sequence of events of three kinds", in any interleaving, each kind again and again
(43_fifo_sync.md R145). -/
def IsClocked (env : Nat → Option Input) : Prop :=
  (∀ n, ∃ x, env n = some x ∧ (x.isWrEdge || x.isRdEdge || x.isCtrEdge) = true) ∧ ClocksRun env

/-- C takes a RECV at step `n`: its own step, or an edge of a read domain out of reset. -/
def RecvTaken (env : Nat → Option Input) (run : Nat → State) (n : Nat) : Prop :=
  env n = some (.line (lineOf .recv)) ∨
    ((run n).rdRst = .out ∧
      (env n = some (.rdEdge (lineOf .recv)) ∨ ∃ lw h t, env n = some (.bothEdges lw (lineOf .recv) h t)))

/-- SYNC_H is enabled (43_fifo_sync.md R140). -/
abbrev State.SyncHEnabled (s : State) : Prop := s.fifoPhase = .live ∧ s.headSeen ≠ s.head

/-- SYNC_T is enabled (43_fifo_sync.md R141). -/
abbrev State.SyncTEnabled (s : State) : Prop := s.fifoPhase = .live ∧ s.tailSeen ≠ s.tail

/-- "if SYNC_H stays enabled from some step on, it is taken" (43_fifo_sync.md R142): some later step moves
`head_seen`. -/
def FairHead (run : Nat → State) : Prop :=
  ∀ n, (∀ m, n ≤ m → (run m).SyncHEnabled) → ∃ m, n ≤ m ∧ (run (m + 1)).headSeen ≠ (run m).headSeen

/-- "likewise SYNC_T" (43_fifo_sync.md R142). -/
def FairTail (run : Nat → State) : Prop :=
  ∀ n, (∀ m, n ≤ m → (run m).SyncTEnabled) → ∃ m, n ≤ m ∧ (run (m + 1)).tailSeen ≠ (run m).tailSeen

end Sys2Proof.Machine
end

