-- ==== Sys2Proof/Certificates/Slice0/Obligations.lean ====
section
/-! DEFINITION. The statements for the provers, from the spec's numbered rules. Each docstring says which rule it
formalises; a statement that rests on a choice of the model names the log entry. -/

open Sys2Proof Sys2Proof.Machine

/-! ## Encoding -/

/-- The encoder and the decoder agree, and every encoded command word has as many bits as its port's format
(30_encoding.md R80, R96). -/
def Obligations.DecodeInvertsEncode : Prop :=
  ∀ i : Instr, decode (encode i) = .ok i ∧ (encode i).cmd < 2 ^ (encode i).port.width

/-- Each word has one meaning: whatever decodes to `i` is the command word of `i` on the port of `i`, with the
operand of `i` on the bus where it has one (30_encoding.md R90, R91, R96). `capacity` is shown on port R too (R160). -/
def Obligations.EachWordHasOneMeaning : Prop :=
  ∀ (o : Offer) (i : Instr), decode o = .ok i →
    o.cmd = (encode i).cmd ∧
      (o.port = (encode i).port ∨ (i = .capacity ∧ o.port = .sr .capacity)) ∧
      (decode ⟨o.port, o.cmd, (encode i).bus⟩ = .ok i)

/-- Words written out from 30_encoding.md: the codes of formats W and R (R82, R84), and those of K, HF and HK that select
an operation (R87, R89). That a wider word at port W or R is refused as `notOfFormat` is log 22 (DEDUCED). -/
def Obligations.SpecWordsDecode : Prop :=
  (∀ d, decode ⟨.w, 0b1, d⟩ = .ok (.send d) ∧ decode ⟨.w, 0b0, d⟩ = .ok .wIdle) ∧
  (∀ d, decode ⟨.r, 0b1, d⟩ = .ok .recv ∧ decode ⟨.r, 0b0, d⟩ = .ok .rIdle) ∧
  (∀ n d, 2 ≤ n → decode ⟨.w, n, d⟩ = .error .notOfFormat ∧ decode ⟨.r, n, d⟩ = .error .notOfFormat) ∧
  (∀ i d, decode ⟨.k i, 0b000, d⟩ = .ok (.ctrNop i) ∧ decode ⟨.k i, 0b001, d⟩ = .ok (.get i) ∧
    decode ⟨.k i, 0b010, d⟩ = .ok (.increment i) ∧ decode ⟨.k i, 0b011, d⟩ = .ok (.add i d) ∧
    decode ⟨.k i, 0b100, d⟩ = .ok (.swap i d) ∧ decode ⟨.k i, 0b101, d⟩ = .ok (.reset i)) ∧
  (∀ d, decode ⟨.hf, 0b00, d⟩ = .ok .fifoReset ∧ decode ⟨.hf, 0b11, d⟩ = .ok .fifoRun) ∧
  (∀ d, decode ⟨.hk, 0b0, d⟩ = .ok .ctrReset ∧ decode ⟨.hk, 0b1, d⟩ = .ok .ctrRun)

/-- The reserved codes of formats K and HF are refused by name, whatever stands on the operand bus
(30_encoding.md R97; 60_exceptions.md R204), K's at a counter edge too: such an edge has no step. That in reset as well the
code is refused under its own name, neither ignored (R208) nor refused as `operationInReset`, is log 10 (DEDUCED). -/
def Obligations.ReservedCodesAreRefused : Prop :=
  (∀ (s : State) (i : Nat) (d : Nat),
    runLine ⟨.k i, ⟨.k i, 0b110, d⟩⟩ s = .refused .reservedCounterOp ∧
    runLine ⟨.k i, ⟨.k i, 0b111, d⟩⟩ s = .refused .reservedCounterOp ∧
    runLine ⟨.h, ⟨.hf, 0b01, d⟩⟩ s = .refused .partialReset ∧
    runLine ⟨.h, ⟨.hf, 0b10, d⟩⟩ s = .refused .partialReset ∧
    ctrEdge [⟨.k i, ⟨.k i, 0b110, d⟩⟩] s = .refused .reservedCounterOp ∧
    ctrEdge [⟨.k i, ⟨.k i, 0b111, d⟩⟩] s = .refused .reservedCounterOp) ∧
  (∀ (s t : State) (ls : List Line) (a : Agent) (i cmd d : Nat), cmd = 0b110 ∨ cmd = 0b111 →
    ⟨a, ⟨.k i, cmd, d⟩⟩ ∈ ls → ctrEdge ls s ≠ .next t)

/-! ## Steps -/

/-- A step runs the decoded instruction: when the next entry of the schedule is a line its port's own agent issues,
and its word decodes to `i`, the step is `exec i` with that entry taken off (log 2). -/
def Obligations.StepRunsDecodedInstruction : Prop :=
  ∀ (s : State) (l : Line) (rest : List Input) (i : Instr),
    s.faulted = [] → s.input = .line l :: rest → l.agent = l.offer.port.driver → decode l.offer = .ok i →
    step s = exec i (s.consume rest)

/-- A step on a `wr_edge` of a write domain out of reset runs the decoded command, then shifts `tsync` with the
`tail_g` from before the edge (43_fifo_sync.md R147); an `rd_edge` likewise with `hsync` and `head_g` (R146). -/
def Obligations.StepOnAnEdgeRunsCommandThenShifts : Prop :=
  ∀ (s t : State) (l : Line) (rest : List Input) (i : Instr), s.faulted = [] → decode l.offer = .ok i →
    exec i (s.consume rest) = .next t →
    (s.input = .wrEdge l :: rest → l.agent = .p → l.offer.port = .w → s.wrRst = .out →
      step s = .next { t with tsync := (s.tailG :: t.tsync).take t.tsync.length }) ∧
    (s.input = .rdEdge l :: rest → l.agent = .c → l.offer.port = .r → s.rdRst = .out →
      step s = .next { t with hsync := (s.headG :: t.hsync).take t.hsync.length })

/-- With nothing offered, nothing of the block changes (70_reset_and_hazards.md R235); a faulted state has no next
state (60_exceptions.md R205; the stop is the model's form of it, log 8). -/
def Obligations.StepWithNothingOfferedOrFaulted : Prop :=
  (∀ s : State, s.faulted = [] → s.input = [] →
    ∃ t, step s = .next t ∧ SameFifo s t ∧ SameCounter s t ∧ t.params = s.params ∧ t.faulted = []) ∧
  (∀ (s : State) (f : Fault) (fs : List Fault), s.faulted = f :: fs → step s = .fault f)

/-- An agent at a port that is not its own is refused by name, as a line and at an edge, in reset or not: a second
driver of port W or R (60_exceptions.md R204, R206), and an observer that the port does not belong to
(44_fifo_status.md R165). That C at an output of port W and P at one of port R are refused likewise, and that a counter
port, a reset pin and a synchronizer have only their own agent, is log 14 (DEDUCED); that a domain in reset refuses as
well is log 10 (DEDUCED). -/
def Obligations.OtherDriversAreRefused : Prop :=
  ∀ (s : State) (a : Agent) (cmd bus : Nat),
    (a ≠ .p → runLine ⟨a, ⟨.w, cmd, bus⟩⟩ s = .refused .secondProducer ∧
      wrEdge ⟨a, ⟨.w, cmd, bus⟩⟩ s = .refused .secondProducer) ∧
    (a ≠ .c → runLine ⟨a, ⟨.r, cmd, bus⟩⟩ s = .refused .secondConsumer ∧
      rdEdge ⟨a, ⟨.r, cmd, bus⟩⟩ s = .refused .secondConsumer) ∧
    (∀ i, a ≠ .k i → runLine ⟨a, ⟨.k i, cmd, bus⟩⟩ s = .refused .secondCounterClient ∧
      ctrEdge [⟨a, ⟨.k i, cmd, bus⟩⟩] s = .refused .secondCounterClient) ∧
    (∀ o, a ≠ .p → runLine ⟨a, ⟨.sw o, cmd, bus⟩⟩ s = .refused .thirdObserver) ∧
    (∀ o, a ≠ .c → runLine ⟨a, ⟨.sr o, cmd, bus⟩⟩ s = .refused .thirdObserver) ∧
    (a ≠ .h → runLine ⟨a, ⟨.hf, cmd, bus⟩⟩ s = .refused .notTheHost ∧
      runLine ⟨a, ⟨.hk, cmd, bus⟩⟩ s = .refused .notTheHost) ∧
    (a ≠ .xh → runLine ⟨a, ⟨.xh, cmd, bus⟩⟩ s = .refused .notTheSynchronizer) ∧
    (a ≠ .xt → runLine ⟨a, ⟨.xt, cmd, bus⟩⟩ s = .refused .notTheSynchronizer)

/-- `faulted` never shrinks and every recorded fault is kept (10_state.md R41; 60_exceptions.md R205): the run with
its faults recorded keeps every reason, and records the reason of a step that faults. -/
def Obligations.FaultedNeverShrinks : Prop :=
  ∀ s : State,
    (∀ f ∈ s.faulted, f ∈ (recordedStep s).faulted) ∧
    (∀ f, step s = .fault f → f ∈ (recordedStep s).faulted)

/-- No step changes a parameter of the instance (00_scope.md R10), nor records a fault by itself. -/
def Obligations.ParametersNeverChange : Prop :=
  ∀ s t : State, step s = .next t → t.params = s.params ∧ t.faulted = s.faulted

/-! ## Parameters -/

/-- `next_pow2(n)` "is the smallest power of two that is `>= max(n, 1)`" (00_scope.md R13). -/
def Obligations.CapacityIsTheLeastPowerOfTwo : Prop :=
  ∀ n : Nat, (∃ a, capOf n = 2 ^ a) ∧ max n 1 ≤ capOf n ∧ ∀ b, max n 1 ≤ 2 ^ b → capOf n ≤ 2 ^ b

/-! ## Reset -/

/-- FIFO_RESET, from any state, leaves every register, flag and output of the FIFO part at the value of
70_reset_and_hazards.md, Table for rule R230 (`rd_data` unspecified), the phase `InReset` until FIFO_RUN makes it
`Live`, and the counter part and everything else as it was (R110, R230, R231). -/
def Obligations.FifoResetLeavesResetValues : Prop :=
  ∀ s : State, ∃ t, exec .fifoReset s = .next t ∧
    (∀ i, t.slots.read i = .empty) ∧ t.head = 0 ∧ t.tail = 0 ∧ t.headG = 0 ∧ t.tailG = 0 ∧
    t.hsync = List.replicate s.params.stages 0 ∧ t.tsync = List.replicate s.params.stages 0 ∧
    t.headSeen = 0 ∧ t.tailSeen = 0 ∧ t.fifoPhase = .inReset ∧
    t.empty = true ∧ t.rdIsEmpty = true ∧ t.wrIsEmpty = true ∧ t.full = decide (t.cap = 1) ∧
    t.wrLen = 0 ∧ t.rdLen = 0 ∧ t.cap = capOf s.params.req ∧ t.wrAck = false ∧ t.rdOut = none ∧
    SameCounter s t ∧ SameFrame s t ∧ t.answers = s.answers ∧
    ∃ u, exec .fifoRun t = .next u ∧ u.fifoPhase = .live

/-- CTR_RESET, from any state, loads INIT and leaves the counter `InReset` with no port answering, and the FIFO part
and everything else as it was (45_counter.md R170; 70_reset_and_hazards.md R231). -/
def Obligations.CtrResetLoadsInit : Prop :=
  ∀ s : State, fits s.params.cw s.params.init →
    ∃ t, exec .ctrReset s = .next t ∧ t.ctr = s.params.init ∧ t.ctrPhase = .inReset ∧
      (∀ i, t.ctrAnswer i = none) ∧ SameFifo s t ∧ SameFrame s t ∧ t.answers = s.answers

/-- FIFO_RUN makes the FIFO `Live` and changes no register (40_fifo_construct.md R113); CTR_RUN makes the counter
`Live` and changes no register (45_counter.md R183). -/
def Obligations.RunOperationsOnlyGoLive : Prop :=
  (∀ s : State, ∃ t, exec .fifoRun s = .next t ∧ t.fifoPhase = .live ∧
    SameCells s t ∧ SameWriteRegs s t ∧ SameReadRegs s t ∧ t.wrAck = s.wrAck ∧ t.rdOut = s.rdOut ∧
    SameCounter s t ∧ SameFrame s t ∧ t.answers = s.answers) ∧
  (∀ s : State, ∃ t, exec .ctrRun s = .next t ∧ t.ctrPhase = .live ∧ t.ctr = s.ctr ∧ t.ctrOut = s.ctrOut ∧
    SameFifo s t ∧ SameFrame s t ∧ t.answers = s.answers)

/-- While a part is `InReset` a port command other than idle is refused as `OperationInReset` (60_exceptions.md R204;
70_reset_and_hazards.md R237; 90_conflicts.md C10). That a synchronizer step, which R40 gives no step there, is refused
under the same name is log 10 (DEDUCED). -/
def Obligations.OperationsInResetAreRefused : Prop :=
  ∀ s : State,
    (s.fifoPhase = .inReset → ∀ i, (i = .recv ∨ (∃ d, i = .send d) ∨ (∃ k, i = .syncH k) ∨ (∃ k, i = .syncT k)) →
      exec i s = .refused .operationInReset) ∧
    (s.ctrPhase = .inReset → ∀ p, p < s.params.ports → ∀ i,
      (i = .get p ∨ i = .increment p ∨ i = .reset p ∨ (∃ n, i = .add p n) ∨ (∃ v, i = .swap p v)) →
      exec i s = .refused .operationInReset)

/-- The reset release of each domain at the clocked level (70_reset_and_hazards.md R232, R237): when its pin goes high,
the first edge of its clock takes no command and changes no register, and from the second on the domain is out of reset,
its part `Live`, and the command is taken. That the model keeps the release in `wrRst`, `rdRst`, `ctrRst` is log 12. -/
def Obligations.CommandsAreTakenFromTheSecondEdge : Prop :=
  (∀ (s : State) (l : Line) (i : Instr), s.wrRst = .held → s.rdRst = .held →
    l.agent = .p → l.offer.port = .w → decode l.offer = .ok i →
    ∃ t u, fifoPins true true s = .next t ∧ wrEdge l t = .next u ∧
      SameCells s u ∧ SameWriteRegs s u ∧ SameReadRegs s u ∧ u.fifoPhase = s.fifoPhase ∧ u.wrAck = false ∧
      (∀ v, exec i { u with fifoPhase := .live, wrRst := .out } = .next v →
        wrEdge l u = .next (v.shiftTail u.tailG))) ∧
  (∀ (s : State) (l : Line) (i : Instr), s.wrRst = .held → s.rdRst = .held →
    l.agent = .c → l.offer.port = .r → decode l.offer = .ok i →
    ∃ t u, fifoPins true true s = .next t ∧ rdEdge l t = .next u ∧
      SameCells s u ∧ SameWriteRegs s u ∧ SameReadRegs s u ∧ u.fifoPhase = s.fifoPhase ∧ u.rdOut = none ∧
      (∀ v, exec i { u with fifoPhase := .live, rdRst := .out } = .next v →
        rdEdge l u = .next (v.shiftHead u.headG))) ∧
  (∀ (s : State) (l : Line) (p : Nat) (i : Instr), s.ctrRst = .held → p < s.params.ports →
    l.agent = .k p → l.offer.port = .k p → decode l.offer = .ok i →
    ∃ t u, ctrPin true s = .next t ∧ ctrEdge [l] t = .next u ∧
      u.ctr = s.ctr ∧ u.ctrPhase = s.ctrPhase ∧ (∀ q, u.ctrAnswer q = none) ∧ u.answers = s.answers ∧
      ctrEdge [l] u = exec i { u with ctrPhase := .live, ctrRst := .out })

/-- What the reset pins do by themselves, and the staggered release (70_reset_and_hazards.md R231, R232, R236): a FIFO pin
that rises starts the release of its own domain and touches nothing else, whichever rises first; the FIFO is `Live` from
the earlier domain's second edge, and until its own the late domain ignores its command and does not shift. The counter's
pin low is CTR_RESET at once, and high starts its release alone (log 12). -/
def Obligations.PinsActOnTheirOwnDomain : Prop :=
  (∀ s : State, s.wrRst = .held → s.rdRst = .held →
    fifoPins true false s = .next { s with wrRst := .noEdge } ∧
    fifoPins false true s = .next { s with rdRst := .noEdge }) ∧
  (∀ s : State, s.wrRst ≠ .held → s.rdRst = .held → fifoPins true true s = .next { s with rdRst := .noEdge }) ∧
  (∀ s : State, s.wrRst = .held → s.rdRst ≠ .held → fifoPins true true s = .next { s with wrRst := .noEdge }) ∧
  (∀ s : State, s.ctrRst = .held → ctrPin true s = .next { s with ctrRst := .noEdge }) ∧
  (∀ s : State, s.ctrRst ≠ .held → ctrPin true s = .next s) ∧
  (∀ s : State, ctrPin false s = exec .ctrReset s) ∧
  (∀ (s t : State) (l : Line), s.wrRst = .oneEdge → wrEdge l s = .next t →
    t.fifoPhase = .live ∧ t.wrRst = .out ∧ t.rdRst = s.rdRst) ∧
  (∀ (s t : State) (l : Line), s.rdRst = .oneEdge → rdEdge l s = .next t →
    t.fifoPhase = .live ∧ t.rdRst = .out ∧ t.wrRst = s.wrRst) ∧
  (∀ (s t : State) (l : Line), s.rdRst = .held ∨ s.rdRst = .noEdge → rdEdge l s = .next t →
    SameCells s t ∧ SameWriteRegs s t ∧ SameReadRegs s t ∧ t.fifoPhase = s.fifoPhase ∧ t.rdOut = none ∧
      t.answers = s.answers) ∧
  (∀ (s t : State) (l : Line), s.wrRst = .held ∨ s.wrRst = .noEdge → wrEdge l s = .next t →
    SameCells s t ∧ SameWriteRegs s t ∧ SameReadRegs s t ∧ t.fifoPhase = s.fifoPhase ∧ t.wrAck = false ∧
      t.answers = s.answers)

/-- One reset pin that goes low while its domain runs is a partial reset and is refused; both low together are the
full reset, at once (70_reset_and_hazards.md R232, R233). -/
def Obligations.PartialResetOfARunningFifoIsRefused : Prop :=
  ∀ s : State, s.wrRst = .out → s.rdRst = .out →
    fifoPins false true s = .refused .partialReset ∧ fifoPins true false s = .refused .partialReset ∧
    fifoPins false false s = exec .fifoReset s

/-! ## The producer -/

/-- SEND on a full FIFO answers FULL with the item unchanged, and changes no cell, no index, no Gray copy and no flag
(41_fifo_send.md R121, R122; `wr_ack` 0 by 30_encoding.md R85). -/
def Obligations.SendOnFullChangesNothing : Prop :=
  ∀ (s : State) (item : Nat), s.fifoPhase = .live → s.full = true → fits s.params.dw item →
    ∃ t, exec (.send item) s = .next t ∧ t.answers = s.answers ++ [.fullItem item] ∧ t.wrAck = false ∧
      SameCells s t ∧ SameWriteRegs s t ∧ SameReadRegs s t ∧ SameFifoLife s t ∧ t.rdOut = s.rdOut ∧
      t.full = s.full ∧ t.empty = s.empty ∧ SameCounter s t ∧ SameFrame s t

/-- SEND on a FIFO that is not full stores the item in cell `head`, publishes `inc(head)` with its Gray copy, answers
OK with `wr_ack` 1, and changes nothing else: no other cell, nothing of the read domain (41_fifo_send.md R120,
R122). -/
def Obligations.SendStoresAndPublishes : Prop :=
  ∀ (s : State) (item : Nat), s.fifoPhase = .live → s.full = false → s.head < s.cap →
    s.slots.read s.head = .empty → fits s.params.dw item →
    ∃ t, exec (.send item) s = .next t ∧ t.answers = s.answers ++ [.ok] ∧ t.wrAck = true ∧
      t.slots.read s.head = .full item ∧ SameCellsBut s t s.head ∧
      t.head = (s.head + 1) % s.cap ∧ t.headG = bin2gray t.head ∧ t.tsync = s.tsync ∧
      (t.full = true ↔ inc s.cap t.head = s.tailSeen) ∧ t.empty = s.empty ∧
      SameReadRegs s t ∧ SameFifoLife s t ∧ t.rdOut = s.rdOut ∧ SameCounter s t ∧ SameFrame s t

/-- SEND that reaches a `Full` cell faults `SlotOverwrite`, and RECV that reaches an `Empty` one `SlotEmptyRead`
(41_fifo_send.md R126; 42_fifo_receive.md R133; 60_exceptions.md R204). -/
def Obligations.ImpossibleAccessesFault : Prop :=
  (∀ (s : State) (item d : Nat), s.fifoPhase = .live → s.full = false → s.head < s.cap →
    s.slots.read s.head = .full d → exec (.send item) s = .fault .slotOverwrite) ∧
  (∀ s : State, s.fifoPhase = .live → s.empty = false → s.tail < s.cap →
    s.slots.read s.tail = .empty → exec .recv s = .fault .slotEmptyRead)

/-! ## The consumer -/

/-- RECV on an empty FIFO answers NONE with `rd_valid` 0 and changes no cell, no index, no Gray copy and no flag
(42_fifo_receive.md R130, R132). -/
def Obligations.RecvOnEmptyChangesNothing : Prop :=
  ∀ s : State, s.fifoPhase = .live → s.empty = true →
    ∃ t, exec .recv s = .next t ∧ t.answers = s.answers ++ [.noneItem] ∧ t.rdOut = none ∧
      SameCells s t ∧ SameWriteRegs s t ∧ SameReadRegs s t ∧ SameFifoLife s t ∧ t.wrAck = s.wrAck ∧
      t.full = s.full ∧ t.empty = s.empty ∧ SameCounter s t ∧ SameFrame s t

/-- RECV on a FIFO that is not empty answers SOME with the item of cell `tail`, marks that cell `Empty`, publishes
`inc(tail)` with its Gray copy, and changes nothing else: no other cell, nothing of the write domain
(42_fifo_receive.md R130, R132). -/
def Obligations.RecvTakesAndPublishes : Prop :=
  ∀ (s : State) (d : Nat), s.fifoPhase = .live → s.empty = false → s.tail < s.cap →
    s.slots.read s.tail = .full d →
    ∃ t, exec .recv s = .next t ∧ t.answers = s.answers ++ [.someItem d] ∧ t.rdOut = some d ∧
      t.slots.read s.tail = .empty ∧ SameCellsBut s t s.tail ∧
      t.tail = (s.tail + 1) % s.cap ∧ t.tailG = bin2gray t.tail ∧ t.hsync = s.hsync ∧
      (t.empty = true ↔ s.headSeen = t.tail) ∧ t.full = s.full ∧
      SameWriteRegs s t ∧ SameFifoLife s t ∧ t.wrAck = s.wrAck ∧ SameCounter s t ∧ SameFrame s t

/-- The idle commands have a step in every state, answer nothing, clear their own port's answer pin and change no
state: W_IDLE (41_fifo_send.md R124), R_IDLE (42_fifo_receive.md R134), CTR_NOP (45_counter.md R171). That they have a
step while their part is `InReset` too is log 10 (DEDUCED). -/
def Obligations.IdleCommandsChangeNoState : Prop :=
  (∀ s : State, ∃ t, exec .wIdle s = .next t ∧ t.wrAck = false ∧ SameCells s t ∧ SameWriteRegs s t ∧
    SameReadRegs s t ∧ SameFifoLife s t ∧ t.rdOut = s.rdOut ∧ SameCounter s t ∧ SameFrame s t ∧
    t.answers = s.answers) ∧
  (∀ s : State, ∃ t, exec .rIdle s = .next t ∧ t.rdOut = none ∧ SameCells s t ∧ SameWriteRegs s t ∧
    SameReadRegs s t ∧ SameFifoLife s t ∧ t.wrAck = s.wrAck ∧ SameCounter s t ∧ SameFrame s t ∧
    t.answers = s.answers) ∧
  (∀ (s : State) (p : Nat), p < s.params.ports → ∃ t, exec (.ctrNop p) s = .next t ∧ t.ctrAnswer p = none ∧
    (∀ q, q ≠ p → t.ctrAnswer q = s.ctrAnswer q) ∧ t.ctr = s.ctr ∧ t.ctrPhase = s.ctrPhase ∧
    t.ctrRst = s.ctrRst ∧ SameFifo s t ∧ SameFrame s t ∧ t.answers = s.answers)

/-! ## The counter -/

/-- GET answers the register's value and leaves it; SWAP answers the old value and stores `v` (45_counter.md R172,
R175): `ctr_rvalid` 1 with the value on the port's own pins, no other port's answer, nothing of the FIFO. -/
def Obligations.GetAndSwapAnswerTheValue : Prop :=
  ∀ (s : State) (p : Nat), s.ctrPhase = .live → p < s.params.ports → s.ctrOut.length = s.params.ports →
    (∃ t, exec (.get p) s = .next t ∧ t.answers = s.answers ++ [.value p s.ctr] ∧ t.ctr = s.ctr ∧
      t.ctrAnswer p = some s.ctr ∧ (∀ q, q ≠ p → t.ctrAnswer q = s.ctrAnswer q) ∧ t.ctrPhase = s.ctrPhase ∧
      t.ctrRst = s.ctrRst ∧ SameFifo s t ∧ SameFrame s t) ∧
    (∀ v, fits s.params.cw v →
      ∃ t, exec (.swap p v) s = .next t ∧ t.answers = s.answers ++ [.value p s.ctr] ∧ t.ctr = v ∧
        t.ctrAnswer p = some s.ctr ∧ (∀ q, q ≠ p → t.ctrAnswer q = s.ctrAnswer q) ∧ t.ctrPhase = s.ctrPhase ∧
        t.ctrRst = s.ctrRst ∧ SameFifo s t ∧ SameFrame s t)

/-- INCREMENT adds 1 and ADD adds `n`, both modulo `2^CW`, and RESET stores 0; they answer nothing (`ctr_rvalid` 0)
and touch no other port's answer and nothing of the FIFO (45_counter.md R173, R174, R176, R179, R181). -/
def Obligations.IncrementAddAndResetAnswerNothing : Prop :=
  ∀ (s : State) (p : Nat), s.ctrPhase = .live → p < s.params.ports →
    ∀ (i : Instr) (c : Nat),
      ((i = .increment p ∧ c = (s.ctr + 1) % 2 ^ s.params.cw) ∨
        (∃ n, fits s.params.cw n ∧ i = .add p n ∧ c = (s.ctr + n) % 2 ^ s.params.cw) ∨
        (i = .reset p ∧ c = 0)) →
      ∃ t, exec i s = .next t ∧ t.ctr = c ∧ t.answers = s.answers ∧ t.ctrAnswer p = none ∧
        (∀ q, q ≠ p → t.ctrAnswer q = s.ctrAnswer q) ∧ t.ctrPhase = s.ctrPhase ∧ t.ctrRst = s.ctrRst ∧
        SameFifo s t ∧ SameFrame s t

/-- An operation on a counter port the instance does not have is refused, as a line and at a counter edge, in reset or
not (30_encoding.md R86; the refusal is the model's, log 14, and so is that a counter in reset refuses, log 10). -/
def Obligations.CounterPortsBeyondNpAreRefused : Prop :=
  ∀ (s : State) (p : Nat), s.params.ports ≤ p → ∀ i,
    (i = .ctrNop p ∨ i = .get p ∨ i = .increment p ∨ i = .reset p ∨ (∃ n, i = .add p n) ∨ (∃ v, i = .swap p v)) →
    exec i s = .refused .noSuchCounterPort ∧ ctrEdge [lineOf i] s = .refused .noSuchCounterPort

/-- The counting law (45_counter.md R182): "from `ctr = 0`, after any run in which the ports together perform exactly
`M` INCREMENTs and no ADD, SWAP or RESET, a GET ordered after all of them returns `M mod 2^CW`", whatever the FIFO's
agents do in between. -/
def Obligations.IncrementsAreCountedExactly : Prop :=
  ∀ (is : List Instr) (s u : State) (p : Nat), s.ctr = 0 → s.ctrPhase = .live → p < s.params.ports →
    (∀ i ∈ is, (∀ q n, i ≠ .add q n) ∧ (∀ q v, i ≠ .swap q v) ∧ (∀ q, i ≠ .reset q) ∧ i ≠ .ctrReset) →
    execAll is s = some u →
    ∃ t, exec (.get p) u = .next t ∧
      t.answers = u.answers ++ [.value p ((is.countP fun i => match i with | .increment _ => true | _ => false)
        % 2 ^ s.params.cw)]

/-- Several ports at one counter edge (45_counter.md R180): "the operations take effect one after another", here in the
order listed (log 16), whatever they are; "Every port's answer is the one that order gives", on its own pins; "The final
`ctr` after the edge is what applying all of them in that order gives"; and a port that makes no call, or one that
returns no value, shows `ctr_rvalid` 0 (R171, R179). -/
def Obligations.SimultaneousCountsAreNotLost : Prop :=
  ∀ (s : State) (is : List Instr), s.ctrPhase = .live → s.ctrRst = .out →
    (∀ i ∈ is, i.wellFormed s.params = true ∧ ∃ p, (encode i).port = .k p) →
    (is.map fun i => (encode i).port).Nodup →
    ∃ t, ctrEdge (is.map lineOf) s = .next t ∧
      t.ctr = valueAfterAll s.params.cw s.ctr is ∧
      t.answers = s.answers ++ answersOfAll s.params.cw s.ctr is ∧
      (∀ before i after p, is = before ++ i :: after → (encode i).port = .k p →
        t.ctrAnswer p = valueAnswered (valueAfterAll s.params.cw s.ctr before) i) ∧
      (∀ p, (∀ i ∈ is, (encode i).port ≠ .k p) → t.ctrAnswer p = none) ∧
      t.ctrPhase = s.ctrPhase ∧ t.ctrRst = s.ctrRst ∧ SameFifo s t ∧ SameFrame s t

/-! ## The status outputs -/

/-- Reading a status output shows its value (44_fifo_status.md R160 to R164, R166) and changes nothing of the block,
in every state. That an output can be read while the FIFO is `InReset` too is log 10 (DEDUCED). -/
def Obligations.StatusReadsShowAndChangeNothing : Prop :=
  ∀ (s : State) (i : Instr) (v : Nat),
    ((i = .capacity ∧ v = capOf s.params.req) ∨ (i = .lenW ∧ v = dist s.cap s.tailSeen s.head) ∨
      (i = .isEmptyW ∧ v = bit (decide (dist s.cap s.tailSeen s.head = 0))) ∨
      (i = .full ∧ v = bit (decide ((s.head + 1) % s.cap = s.tailSeen))) ∨
      (i = .lenR ∧ v = dist s.cap s.tail s.headSeen) ∨
      (i = .isEmptyR ∧ v = bit (decide (dist s.cap s.tail s.headSeen = 0))) ∨
      (i = .empty ∧ v = bit (decide (s.headSeen = s.tail)))) →
    ∃ t, exec i s = .next t ∧ t.answers = s.answers ++ [.shown v] ∧ SameFifo s t ∧ SameCounter s t ∧ SameFrame s t

/-- "`rd_len <= occupancy <= wr_len <= CAP - 1`" (44_fifo_status.md R169), "`wr_full = 1` exactly when
`wr_len = CAP - 1`; `rd_empty = 1` exactly when `rd_len = 0`" (R166), `wr_is_empty = 1` only when the FIFO is truly
empty (R163), and IS_EMPTY_R is EMPTY (R164). -/
def Obligations.StatusOutputsBracketTheOccupancy : Prop :=
  ∀ s : State, Inv s →
    s.rdLen ≤ s.occupancy ∧ s.occupancy ≤ s.wrLen ∧ s.wrLen ≤ s.cap - 1 ∧
    (s.full = true ↔ s.wrLen = s.cap - 1) ∧ (s.empty = true ↔ s.rdLen = 0) ∧
    (s.wrIsEmpty = true → s.occupancy = 0) ∧ s.rdIsEmpty = s.empty ∧
    s.wrLen = s.tailLag + s.rdLen + s.headLag ∧ s.occupancy = s.rdLen + s.headLag

/-! ## The synchronizers -/

/-- SYNC_H moves `head_seen` forward by every `k` from 1 to its lag, raises `rd_len` by `k`, clears `empty`, and
changes nothing of the write domain, no cell and no index (43_fifo_sync.md R140). -/
def Obligations.SyncHMovesHeadSeen : Prop :=
  ∀ (s : State) (k : Nat), Inv s → s.fifoPhase = .live → 1 ≤ k → k ≤ dist s.cap s.headSeen s.head →
    ∃ t, exec (.syncH k) s = .next t ∧ t.headSeen = (s.headSeen + k) % s.cap ∧ t.rdLen = s.rdLen + k ∧
      t.empty = false ∧ t.full = s.full ∧ SameCells s t ∧ SameWriteRegs s t ∧ t.tail = s.tail ∧ t.tailG = s.tailG ∧
      SameFifoLife s t ∧ t.wrAck = s.wrAck ∧ t.rdOut = s.rdOut ∧ SameCounter s t ∧ SameFrame s t ∧
      t.answers = s.answers

/-- SYNC_T moves `tail_seen` forward by every `k` from 1 to its lag, lowers `wr_len` by `k`, clears `full`, and
changes nothing of the read domain, no cell and no index (43_fifo_sync.md R141). -/
def Obligations.SyncTMovesTailSeen : Prop :=
  ∀ (s : State) (k : Nat), Inv s → s.fifoPhase = .live → 1 ≤ k → k ≤ dist s.cap s.tailSeen s.tail →
    ∃ t, exec (.syncT k) s = .next t ∧ t.tailSeen = (s.tailSeen + k) % s.cap ∧ t.wrLen + k = s.wrLen ∧
      t.full = false ∧ t.empty = s.empty ∧ SameCells s t ∧ SameReadRegs s t ∧ t.head = s.head ∧ t.headG = s.headG ∧
      SameFifoLife s t ∧ t.wrAck = s.wrAck ∧ t.rdOut = s.rdOut ∧ SameCounter s t ∧ SameFrame s t ∧
      t.answers = s.answers

/-- A draw outside `1 .. lag` is not a step, in particular none when the seen copy has caught up (43_fifo_sync.md
R140, R141); the refusal is the model's form of it (log 7). -/
def Obligations.DrawsOutsideTheLagAreNoStep : Prop :=
  ∀ (s : State) (k : Nat), s.fifoPhase = .live →
    ((k = 0 ∨ s.headLag < k) → exec (.syncH k) s = .refused .syncNotEnabled) ∧
    ((k = 0 ∨ s.tailLag < k) → exec (.syncT k) s = .refused .syncNotEnabled)

/-! ## The Gray code -/

/-- `bin2gray` and `gray2bin` "are inverse bijections on `0 .. 2^AW - 1`" (00_scope.md R16). -/
def Obligations.GrayCodesAreInverse : Prop :=
  ∀ aw v : Nat, v < 2 ^ aw →
    bin2gray v < 2 ^ aw ∧ gray2bin aw v < 2 ^ aw ∧ gray2bin aw (bin2gray v) = v ∧ bin2gray (gray2bin aw v) = v

/-- "For every `b`, `bin2gray(b)` and `bin2gray(inc(b))` differ in exactly one bit, including the wrap from
`CAP - 1` to 0" (00_scope.md R16), for CAP of 2 and up. -/
def Obligations.GrayNeighboursDifferInOneBit : Prop :=
  ∀ aw b : Nat, 1 ≤ aw → b < 2 ^ aw → ∃ i < aw, bin2gray b ^^^ bin2gray (inc (2 ^ aw) b) = 2 ^ i

/-- Per-bit sampling (43_fifo_sync.md R148): "for every bit `i`, `v[i] = old[i]` or `v[i] = new[i]`", every such `v`
is some draw, and a register that is not changing is sampled right. -/
def Obligations.SamplingIsOldOrNewPerBit : Prop :=
  (∀ old new mix i, (sample old new mix).testBit i = old.testBit i ∨
    (sample old new mix).testBit i = new.testBit i) ∧
  (∀ old new v : Nat, (∀ i, v.testBit i = old.testBit i ∨ v.testBit i = new.testBit i) →
    ∃ mix, sample old new mix = v) ∧
  (∀ r mix, sample r r mix = r)

/-- Why the Gray code (43_fifo_sync.md R149): a sample of an index's Gray copy, taken while the index moves one step,
is the code of the old or of the new index, "never a third value". -/
def Obligations.SampledIndexIsOldOrNew : Prop :=
  ∀ aw b mix : Nat, b < 2 ^ aw →
    gray2bin aw (sample (bin2gray b) (bin2gray (inc (2 ^ aw) b)) mix) = b ∨
    gray2bin aw (sample (bin2gray b) (bin2gray (inc (2 ^ aw) b)) mix) = inc (2 ^ aw) b

/-- The cell format (30_encoding.md R88): `DW + 1` bits stand for the cell they were made from, whatever the data
bits of an `Empty` cell hold, and nothing lies above bit DW. -/
def Obligations.CellFormatIsFaithful : Prop :=
  ∀ (dw free : Nat) (c : Cell), (∀ d, c = .full d → fits dw d) →
    Cell.ofBits dw (c.bits dw free) = c ∧ c.bits dw free < 2 ^ (dw + 1)

/-! ## Invariants -/

/-- The invariant holds right after reset, for every instance whose parameters are in range (10_state.md R38, R39,
R43; 43_fifo_sync.md R150). -/
def Obligations.ResetEstablishesTheInvariant : Prop :=
  ∀ p : Params, p.wf → Inv (State.resetOf p)

/-- Every step keeps the invariant: ring order (10_state.md R38), occupancy (R39), the Gray copies (R23, R24), the
chain order (43_fifo_sync.md R150), the canonical form and the widths, whatever is offered, untimed or clocked. -/
def Obligations.EveryStepKeepsTheInvariant : Prop :=
  ∀ s t : State, Inv s → step s = .next t → Inv t

/-- From a state that meets the invariant no step faults: `SlotOverwrite` and `SlotEmptyRead` cannot happen
(41_fifo_send.md R126; 42_fifo_receive.md R133). -/
def Obligations.NoStepFaults : Prop :=
  ∀ (s : State) (f : Fault), Inv s → s.faulted = [] → step s ≠ .fault f

/-- "Optimistic flags never occur" (44_fifo_status.md R168): when `wr_full = 0` cell `head` is `Empty` and a SEND
taken now answers OK and touches no other cell; when `rd_empty = 0` cell `tail` is `Full` and a RECV taken now returns
its item. -/
def Obligations.OptimisticFlagsNeverOccur : Prop :=
  ∀ s : State, Inv s → s.fifoPhase = .live →
    (s.full = false → s.slots.read s.head = .empty ∧
      ∀ item, ∃ t, exec (.send item) s = .next t ∧ t.answers = s.answers ++ [.ok] ∧ SameCellsBut s t s.head) ∧
    (s.empty = false → ∃ d, s.slots.read s.tail = .full d ∧
      ∃ t, exec .recv s = .next t ∧ t.answers = s.answers ++ [.someItem d])

/-- The two sides never touch the same cell: when both could succeed, `head` and `tail` differ (20_memory.md R59;
70_reset_and_hazards.md R244). -/
def Obligations.SidesNeverTouchTheSameCell : Prop :=
  ∀ s : State, Inv s → s.full = false → s.empty = false → s.head ≠ s.tail

/-- A SEND and a RECV taken at the same instant do not interact: "The result is the same as either order of the two
steps" (60_exceptions.md R209), but for the order the two answers are listed in. -/
def Obligations.SendAndRecvCommute : Prop :=
  ∀ (s : State) (item : Nat), Inv s → s.fifoPhase = .live →
    ∃ a b ab ba, exec (.send item) s = .next a ∧ exec .recv a = .next ab ∧ exec .recv s = .next b ∧
      exec (.send item) b = .next ba ∧ { ab with answers := [] } = { ba with answers := [] }

/-- Coherence (20_memory.md R64): in one step of a live FIFO a seen index never steps backwards and never gets ahead
of the index it carries: "`dist(old head_seen, new head_seen) <= dist(old head_seen, head)`", and the same for the
tail. -/
def Obligations.SeenIndicesNeverStepBack : Prop :=
  ∀ s t : State, Inv s → step s = .next t → t.fifoPhase = .live →
    dist s.cap s.headSeen t.headSeen ≤ dist s.cap s.headSeen t.head ∧
    dist s.cap s.tailSeen t.tailSeen ≤ dist s.cap s.tailSeen t.tail

/-- With `CAP = 1` every SEND answers FULL and every RECV answers NONE, for ever (40_fifo_construct.md R111). -/
def Obligations.CapacityOneAlwaysRefuses : Prop :=
  ∀ (s : State) (item : Nat), Inv s → s.fifoPhase = .live → s.cap = 1 →
    (∃ t, exec (.send item) s = .next t ∧ t.answers = s.answers ++ [.fullItem (s.busItem item)]) ∧
    (∃ t, exec .recv s = .next t ∧ t.answers = s.answers ++ [.noneItem])

/-! ## The two parts are independent -/

/-- "No rule orders a counter operation against a FIFO operation" (45_counter.md R184), and neither part touches the
other (70_reset_and_hazards.md R231): an operation of port W, port R, the FIFO's reset pins or a synchronizer leaves
the whole counter part as it was, and one of a counter port or the counter's reset pin the whole FIFO part. -/
def Obligations.TheTwoPartsAreIndependent : Prop :=
  ∀ (s t : State) (i : Instr), exec i s = .next t →
    (((encode i).port = .w ∨ (encode i).port = .r ∨ (encode i).port = .hf ∨ (encode i).port = .xh ∨
      (encode i).port = .xt) → SameCounter s t) ∧
    (((∃ p, (encode i).port = .k p) ∨ (encode i).port = .hk) → SameFifo s t)

/-! ## FIFO order -/

/-- FIFO order, no loss, no duplication (20_memory.md R66, R67): over any run with no FIFO_RESET, what was stored
followed by what was sent is what was received followed by what is still stored. So successful RECV number `n`
returns the item of successful SEND number `n`, bit for bit, when nothing was stored at first. -/
def Obligations.ItemsComeOutInTheOrderSent : Prop :=
  ∀ (is : List Instr) (s u : State) (sent received : List Nat), Inv s → .fifoReset ∉ is →
    traffic is s = some (u, sent, received) → s.contents ++ sent = received ++ u.contents

/-- The boundary (41_fifo_send.md R125; 95_test_vectors.md S3): from the reset state gone live, `CAP - 1` SENDs of
any items answer OK, and the next answers FULL with its item unchanged; nothing more was stored. -/
def Obligations.CapacityMinusOneSendsThenFull : Prop :=
  ∀ (p : Params) (items : List Nat) (item : Nat), p.wf → items.length + 1 = capOf p.req →
    (∀ d ∈ items, fits p.dw d) → fits p.dw item →
    ∃ u t, traffic (items.map .send) (State.resetOf p).outOfReset = some (u, items, []) ∧ u.contents = items ∧
      exec (.send item) u = .next t ∧ t.answers = u.answers ++ [.fullItem item] ∧ t.contents = items

/-- The round trip with no overlap (95_test_vectors.md S2): from the reset state gone live, at most `CAP - 1` SENDs,
one SYNC_H over the whole lag, and as many RECVs return exactly the items sent, in the order sent; the next RECV
answers NONE. -/
def Obligations.SendSyncReceiveRoundTrip : Prop :=
  ∀ (p : Params) (items : List Nat), p.wf → items ≠ [] → items.length + 1 ≤ capOf p.req →
    (∀ d ∈ items, fits p.dw d) →
    ∃ u t, traffic (items.map .send ++ .syncH items.length :: List.replicate items.length .recv)
        (State.resetOf p).outOfReset = some (u, items, items) ∧
      exec .recv u = .next t ∧ t.answers = u.answers ++ [.noneItem]

/-! ## The clocked level refines the untimed one -/

/-- Refinement of the read side (43_fifo_sync.md R151): an `rd_edge` of a domain out of reset, read through R34, is
C's step with the `head_seen` from before the edge, with its answer, and then SYNC_H over the distance `head_seen`
moved, or no synchronizer step when it did not move. -/
def Obligations.ReadEdgeRefinesUntimedSteps : Prop :=
  ∀ (s t : State) (l : Line) (i : Instr), Inv s → s.rdRst = .out → decode l.offer = .ok i → rdEdge l s = .next t →
    ∃ u v, exec i s = .next u ∧ moveHead (dist s.cap s.headSeen t.headSeen) u = .next v ∧ t.arch = v.arch ∧
      t.answers = v.answers ∧ t.rdOut = v.rdOut

/-- Refinement of the write side (43_fifo_sync.md R151): a `wr_edge` is P's step with the `tail_seen` from before the
edge, with its answer, and then SYNC_T over the distance `tail_seen` moved, or none. -/
def Obligations.WriteEdgeRefinesUntimedSteps : Prop :=
  ∀ (s t : State) (l : Line) (i : Instr), Inv s → s.wrRst = .out → decode l.offer = .ok i → wrEdge l s = .next t →
    ∃ u v, exec i s = .next u ∧ moveTail (dist s.cap s.tailSeen t.tailSeen) u = .next v ∧ t.arch = v.arch ∧
      t.answers = v.answers ∧ t.wrAck = v.wrAck

/-- Coinciding edges (43_fifo_sync.md R145, R148, R149, R151): whatever each chain captures of the register that may
be changing, the pair of edges is C's step, P's step, and then SYNC_H and SYNC_T over the distances the seen indices
moved. -/
def Obligations.CoincidingEdgesRefineUntimedSteps : Prop :=
  ∀ (s t : State) (lw lr : Line) (hMix tMix : Nat) (iw ir : Instr), Inv s → s.wrRst = .out → s.rdRst = .out →
    decode lw.offer = .ok iw → decode lr.offer = .ok ir → bothEdges lw lr hMix tMix s = .next t →
    ∃ a b u v, exec ir s = .next a ∧ exec iw a = .next b ∧
      moveTail (dist s.cap s.tailSeen t.tailSeen) b = .next u ∧
      moveHead (dist s.cap s.headSeen t.headSeen) u = .next v ∧ t.arch = v.arch ∧ t.answers = v.answers ∧
      t.wrAck = v.wrAck ∧ t.rdOut = v.rdOut

/-- Crossing at the clocked level (43_fifo_sync.md R146, R147, R151; 70_reset_and_hazards.md R254): after S read edges
and no write edge, whatever C does at them, `head_seen` is `head`, and after S write edges and no read edge, whatever P
does at them, `tail_seen` is `tail`. -/
def Obligations.IndicesAreSeenAfterSEdges : Prop :=
  ∀ (s : State) (cmds : List Instr), Inv s → s.faulted = [] → cmds.length = s.params.stages →
    ((∀ i ∈ cmds, i = .rIdle ∨ i = .recv) → s.rdRst = .out →
      s.input = (cmds.map fun i => .rdEdge (lineOf i)) →
      ∃ t, Host.Core.run Sys2Proof.core s.params.stages s = .next t ∧ t.headSeen = s.head ∧ SameWriteRegs s t ∧
        ((∀ i ∈ cmds, i = .rIdle) → t.tail = s.tail ∧ SameCells s t)) ∧
    ((∀ i ∈ cmds, i = .wIdle ∨ ∃ item, i = .send item) → s.wrRst = .out →
      s.input = (cmds.map fun i => .wrEdge (lineOf i)) →
      ∃ t, Host.Core.run Sys2Proof.core s.params.stages s = .next t ∧ t.tailSeen = s.tail ∧ SameReadRegs s t ∧
        ((∀ i ∈ cmds, i = .wIdle) → t.head = s.head ∧ SameCells s t))

/-! ## Eventual visibility -/

/-- What makes a seen index catch up (43_fifo_sync.md R140, R141, R150; 20_memory.md R64, R68): in a step that completes
into a live FIFO, while `head` stands still the lag of `head_seen` never grows, and it shrinks whenever `head_seen`
moves; the same for the tail. -/
def Obligations.LagsShrinkWhileIndicesStand : Prop :=
  ∀ s t : State, Inv s → step s = .next t → t.fifoPhase = .live →
    (t.head = s.head → t.headLag ≤ s.headLag ∧ (t.headSeen ≠ s.headSeen → t.headLag < s.headLag)) ∧
    (t.tail = s.tail → t.tailLag ≤ s.tailLag ∧ (t.tailSeen ≠ s.tailSeen → t.tailLag < s.tailLag))

/-- Eventual visibility (20_memory.md R68): in an endless run in which XH is weakly fair (43_fifo_sync.md R142), whatever
the agents go on doing, if `head` no longer changes from some step on, `head_seen` comes to equal it. The environment's
stream stands outside State, and the run is fair by hypothesis (log 17). -/
def Obligations.HeadBecomesVisible : Prop :=
  ∀ (env : Nat → Option Input) (run : Nat → State) (n : Nat), IsRun env run → Inv (run 0) → FairHead run →
    (∀ m, n ≤ m → (run m).head = (run n).head) → ∃ m, n ≤ m ∧ (run m).headSeen = (run m).head

/-- The same for `tail`, XT and `tail_seen` (20_memory.md R68; 43_fifo_sync.md R142). -/
def Obligations.TailBecomesVisible : Prop :=
  ∀ (env : Nat → Option Input) (run : Nat → State) (n : Nat), IsRun env run → Inv (run 0) → FairTail run →
    (∀ m, n ≤ m → (run m).tail = (run n).tail) → ∃ m, n ≤ m ∧ (run m).tailSeen = (run m).tail

/-- Clocks that never stop make both synchronizers fair (43_fifo_sync.md R145, R151: "which gives the fairness of rule
R142"), in every clocked run in which neither domain is reset. -/
def Obligations.RunningClocksAreFair : Prop :=
  ∀ (env : Nat → Option Input) (run : Nat → State), IsRun env run → IsClocked env → Inv (run 0) →
    (∀ n, (run n).wrRst = .out ∧ (run n).rdRst = .out) → FairHead run ∧ FairTail run

/-- The termination part of the round trip (95_test_vectors.md S4): in an endless run in which XH is weakly fair and C
takes a RECV again and again (it retries on NONE), if P stops sending, everything stored comes to be taken. -/
def Obligations.RetryingConsumerDrainsTheFifo : Prop :=
  ∀ (env : Nat → Option Input) (run : Nat → State) (n : Nat), IsRun env run → Inv (run 0) → FairHead run →
    (∀ m, ∃ j, m ≤ j ∧ RecvTaken env run j) → (∀ m, n ≤ m → (run m).head = (run n).head) →
    ∃ m, n ≤ m ∧ (run m).occupancy = 0
end

