-- ==== Sys2Proof/Laws/Gray.lean ====
section
/-! SUPPORT. The Gray code (00_scope.md R16): widths, and decoding what was encoded. -/

namespace Sys2Proof.Machine

variable {aw b g : Nat}

theorem bin2gray_lt (h : b < 2 ^ aw) : bin2gray b < 2 ^ aw :=
  Nat.xor_lt_two_pow h (lt_of_le_of_lt (Nat.shiftRight_le _ _) h)

theorem gray2bin_lt (h : g < 2 ^ aw) (n : Nat) : gray2bin n g < 2 ^ aw := by
  induction n with
  | zero => exact Nat.two_pow_pos _
  | succ n ih => exact Nat.xor_lt_two_pow ih (lt_of_le_of_lt (Nat.shiftRight_le _ _) h)

@[simp] theorem bin2gray_zero : bin2gray 0 = 0 := rfl

@[simp] theorem gray2bin_zero (n : Nat) : gray2bin n 0 = 0 := by
  induction n with
  | zero => rfl
  | succ n ih => simp [gray2bin, ih]

/-- Decoding `n` bits of a code telescopes. -/
theorem gray2bin_bin2gray_shift (n b : Nat) : gray2bin n (bin2gray b) = b ^^^ (b >>> n) := by
  induction n with
  | zero => simp [gray2bin]
  | succ n ih =>
    have h : bin2gray b >>> n = (b >>> n) ^^^ (b >>> (n + 1)) := by
      simp [bin2gray, Nat.shiftRight_xor_distrib, ← Nat.shiftRight_add, Nat.add_comm]
    rw [gray2bin, ih, h, Nat.xor_assoc, ← Nat.xor_assoc (b >>> n), Nat.xor_self, Nat.zero_xor]

/-- `gray2bin(bin2gray(b)) = b` on `aw` bits (00_scope.md R16). -/
theorem gray2bin_bin2gray (h : b < 2 ^ aw) : gray2bin aw (bin2gray b) = b := by
  rw [gray2bin_bin2gray_shift, Nat.shiftRight_eq_zero _ _ h, Nat.xor_zero]

end Sys2Proof.Machine
end

