-- ==== Sys2Proof/Laws/Ring.lean ====
section
/-! SUPPORT. Index arithmetic on the ring (00_scope.md R13, R14, R17): what `inc`, `forward` and `dist` are below CAP,
and how distances add up. -/

namespace Sys2Proof.Machine

theorem capOf_pos (req : Nat) : 0 < capOf req := Nat.two_pow_pos _

theorem State.cap_pos (s : State) : 0 < s.cap := capOf_pos _

theorem State.cap_eq (s : State) : s.cap = 2 ^ s.aw := rfl

variable {cap a b c k : Nat}

theorem forward_eq (ha : a < cap) (hk : k ≤ cap) :
    forward cap a k = if a + k < cap then a + k else a + k - cap := by
  unfold forward
  split
  · exact Nat.mod_eq_of_lt ‹_›
  · rw [Nat.mod_eq_sub_mod (by omega), Nat.mod_eq_of_lt (by omega)]

theorem inc_eq_forward (cap p : Nat) : inc cap p = forward cap p 1 := rfl

theorem inc_eq (ha : a < cap) : inc cap a = if a + 1 = cap then 0 else a + 1 := by
  rw [inc_eq_forward, forward_eq ha (by omega)]
  split <;> split <;> omega

theorem dist_eq (ha : a < cap) (hb : b < cap) :
    dist cap a b = if a ≤ b then b - a else b + cap - a := by
  unfold dist
  rw [Nat.mod_eq_of_lt ha]
  split
  · rw [Nat.mod_eq_sub_mod (by omega), Nat.mod_eq_of_lt (by omega)]; omega
  · rw [Nat.mod_eq_of_lt (by omega)]; omega

theorem dist_lt (h : 0 < cap) (a b : Nat) : dist cap a b < cap := Nat.mod_lt _ h

theorem forward_lt (h : 0 < cap) (a k : Nat) : forward cap a k < cap := Nat.mod_lt _ h

theorem inc_lt (h : 0 < cap) (a : Nat) : inc cap a < cap := Nat.mod_lt _ h

theorem dist_self (ha : a < cap) : dist cap a a = 0 := by rw [dist_eq ha ha]; simp

theorem dist_eq_zero_iff (ha : a < cap) (hb : b < cap) : dist cap a b = 0 ↔ a = b := by
  rw [dist_eq ha hb]; split <;> omega

theorem dist_forward (ha : a < cap) (hk : k < cap) : dist cap a (forward cap a k) = k := by
  rw [dist_eq ha (forward_lt (by omega) _ _), forward_eq ha (by omega)]
  split <;> split <;> omega

theorem forward_dist (ha : a < cap) (hb : b < cap) : forward cap a (dist cap a b) = b := by
  rw [forward_eq ha (dist_lt (by omega) _ _).le, dist_eq ha hb]
  split <;> split <;> omega

/-- Distances along the ring add up while their sum stays below CAP. -/
theorem dist_add (ha : a < cap) (hb : b < cap) (hc : c < cap) (h : dist cap a b + dist cap b c < cap) :
    dist cap a c = dist cap a b + dist cap b c := by
  rw [dist_eq ha hb, dist_eq hb hc] at *
  rw [dist_eq ha hc]
  split_ifs at h ⊢ <;> omega

/-- A value between two others splits their distance (00_scope.md R17). -/
theorem dist_split (ha : a < cap) (hb : b < cap) (hc : c < cap) (h : dist cap a b ≤ dist cap a c) :
    dist cap a c = dist cap a b + dist cap b c := by
  rw [dist_eq ha hb, dist_eq ha hc] at *
  rw [dist_eq hb hc]
  split_ifs at h ⊢ <;> omega

/-- The same, measured from the far end. -/
theorem dist_split_right (ha : a < cap) (hb : b < cap) (hc : c < cap) (h : dist cap b c ≤ dist cap a c) :
    dist cap a c = dist cap a b + dist cap b c := by
  rw [dist_eq hb hc, dist_eq ha hc] at *
  rw [dist_eq ha hb]
  split_ifs at h ⊢ <;> omega

theorem dist_inc_right (ha : a < cap) (hb : b < cap) (h : dist cap a b + 1 < cap) :
    dist cap a (inc cap b) = dist cap a b + 1 := by
  rw [dist_eq ha (inc_lt (by omega) b), inc_eq hb]
  rw [dist_eq ha hb] at *
  split_ifs at h ⊢ <;> omega

theorem dist_inc_left (ha : a < cap) (hb : b < cap) (h : 1 ≤ dist cap a b) :
    dist cap (inc cap a) b + 1 = dist cap a b := by
  rw [dist_eq (inc_lt (by omega) a) hb, inc_eq ha]
  rw [dist_eq ha hb] at *
  split_ifs at h ⊢ <;> omega

/-- The full test is a distance of `CAP - 1`. -/
theorem inc_eq_iff (ha : a < cap) (hb : b < cap) : inc cap a = b ↔ dist cap b a = cap - 1 := by
  rw [inc_eq ha, dist_eq hb ha]
  split <;> split <;> omega

theorem dist_left_inj (ha : a < cap) (hb : b < cap) (hc : c < cap) (h : dist cap c a = dist cap c b) : a = b := by
  rw [← forward_dist hc ha, h, forward_dist hc hb]

/-! ## Four values in ring order (10_state.md R38): `ts`, `t`, `hs`, `h` -/

variable {ts t hs h x : Nat}

/-- In ring order the write side's view is the sum of the three distances. -/
theorem ring_total (hts : ts < cap) (ht : t < cap) (hhs : hs < cap) (hh : h < cap)
    (r : dist cap ts t + dist cap t hs + dist cap hs h ≤ cap - 1) :
    dist cap t h = dist cap t hs + dist cap hs h ∧
      dist cap ts h = dist cap ts t + dist cap t hs + dist cap hs h := by
  have h1 := dist_add ht hhs hh (by omega)
  exact ⟨h1, by rw [dist_add hts ht hh (by omega)]; omega⟩

/-- `hs` may move to any value that is no further behind `h`. -/
theorem ring_move_head (ht : t < cap) (hhs : hs < cap) (hh : h < cap) (hx : x < cap)
    (r : dist cap ts t + dist cap t hs + dist cap hs h ≤ cap - 1) (le : dist cap x h ≤ dist cap hs h) :
    dist cap ts t + dist cap t x + dist cap x h ≤ cap - 1 := by
  have h1 := dist_split_right hhs hx hh le
  have h2 := dist_add ht hhs hx (by omega)
  omega

/-- After the move the read side sees that many steps more. -/
theorem ring_move_head_len (ht : t < cap) (hhs : hs < cap) (hh : h < cap) (hx : x < cap)
    (r : dist cap ts t + dist cap t hs + dist cap hs h ≤ cap - 1) (le : dist cap x h ≤ dist cap hs h) :
    dist cap t x = dist cap t hs + dist cap hs x := by
  have h1 := dist_split_right hhs hx hh le
  exact dist_add ht hhs hx (by omega)

end Sys2Proof.Machine
end

