-- ==== Sys2Proof/Laws/Chain.lean ====
section
/-! SUPPORT. The synchronizer chains: what shifting a value in and catching up do to the last stage, to the widths and
to the chain order (43_fifo_sync.md R150). -/

namespace Sys2Proof.Machine

variable {aw cap index : Nat} {chain : List Nat} {v : Nat}

theorem shiftIn_length (v : Nat) (chain : List Nat) : (shiftIn v chain).length = chain.length := by
  simp [shiftIn]

theorem mem_shiftIn {g : Nat} (h : g ∈ shiftIn v chain) : g = v ∨ g ∈ chain :=
  List.mem_cons.1 (List.mem_of_mem_take h)

theorem catchUp_length (aw cap seen k : Nat) (chain : List Nat) :
    (catchUp aw cap seen k chain).length = chain.length := List.length_map _

/-- The last stage is a stage. -/
theorem getLastD_mem (h : chain ≠ []) : chain.getLastD 0 ∈ chain := by
  rw [List.getLastD_eq_getLast?, List.getLast?_eq_some_getLast h]
  exact List.getLast_mem h

theorem getLastD_lt (hc : 0 < cap) (h : ∀ g ∈ chain, g < cap) : chain.getLastD 0 < cap := by
  by_cases he : chain = []
  · subst he; exact hc
  · exact h _ (getLastD_mem he)

/-- The last stage of a chain at reset is 0. -/
theorem resetChain_last (n : Nat) : (List.replicate n 0).getLastD 0 = 0 := by
  by_cases h : List.replicate n 0 = []
  · rw [h]; rfl
  · exact List.eq_of_mem_replicate (getLastD_mem h)

/-- No stage is further behind the source than the last one. -/
theorem ChainOrdered.le_last (h : ChainOrdered aw cap chain index) {g : Nat} (hg : g ∈ chain) :
    dist cap (gray2bin aw g) index ≤ dist cap (gray2bin aw (chain.getLastD 0)) index := by
  induction chain with
  | nil => cases hg
  | cons a l ih =>
    obtain ⟨h1, h2⟩ := List.pairwise_cons.1 h
    by_cases he : l = []
    · subst he; simp at hg; subst hg; exact le_refl _
    · have hl : (a :: l).getLastD 0 = l.getLastD 0 := by
        cases l with
        | nil => exact absurd rfl he
        | cons b m => rfl
      rw [hl]
      rcases List.mem_cons.1 hg with rfl | hg
      · exact h1 _ (List.mem_map_of_mem (getLastD_mem he))
      · exact ih h2 hg

theorem ChainOrdered.shiftIn (h : ChainOrdered aw cap chain index)
    (hv : ∀ g ∈ chain, dist cap (gray2bin aw v) index ≤ dist cap (gray2bin aw g) index) :
    ChainOrdered aw cap (shiftIn v chain) index := by
  have hc : ChainOrdered aw cap (v :: chain) index :=
    List.pairwise_cons.2 ⟨fun x hx => by obtain ⟨g, hg, rfl⟩ := List.mem_map.1 hx; exact hv g hg, h⟩
  exact hc.sublist ((List.take_sublist _ _).map _)

/-- After a shift the last stage is no further behind the source. -/
theorem shiftIn_last_le (h : ChainOrdered aw cap chain index)
    (hv : ∀ g ∈ chain, dist cap (gray2bin aw v) index ≤ dist cap (gray2bin aw g) index) (hne : chain ≠ []) :
    dist cap (gray2bin aw ((Machine.shiftIn v chain).getLastD 0)) index ≤
      dist cap (gray2bin aw (chain.getLastD 0)) index := by
  have hne' : Machine.shiftIn v chain ≠ [] := by
    rw [← List.length_pos_iff, shiftIn_length]; exact List.length_pos_iff.2 hne
  rcases mem_shiftIn (getLastD_mem hne') with he | hm
  · rw [he]; exact hv _ (getLastD_mem hne)
  · exact h.le_last hm

/-- When the source has moved one step and every stage had room, every lag has grown by one. -/
theorem ChainOrdered.source_inc (h : ChainOrdered aw cap chain index) (hi : index < cap)
    (hg : ∀ g ∈ chain, gray2bin aw g < cap)
    (room : dist cap (gray2bin aw (chain.getLastD 0)) index + 1 < cap) :
    ChainOrdered aw cap chain (inc cap index) := by
  have hl : lags aw cap chain (inc cap index) = (lags aw cap chain index).map (· + 1) := by
    simp only [lags, List.map_map]
    refine List.map_congr_left fun g hm => ?_
    have := h.le_last hm
    exact dist_inc_right (hg g hm) hi (by omega)
  rw [ChainOrdered, hl]
  exact (List.pairwise_map.2 (h.imp fun hab => by omega))

section catchUp

variable {k : Nat} (hcap : cap = 2 ^ aw)
include hcap

/-- The last stage catches up exactly `k` steps. -/
theorem catchUp_last (hne : chain ≠ []) (hk : 1 ≤ k) (hl : chain.getLastD 0 < cap) :
    gray2bin aw ((catchUp aw cap (gray2bin aw (chain.getLastD 0)) k chain).getLastD 0) =
      forward cap (gray2bin aw (chain.getLastD 0)) k := by
  have hseen : gray2bin aw (chain.getLastD 0) < cap := by subst hcap; exact gray2bin_lt hl aw
  have hpos : 0 < cap := by omega
  have : (catchUp aw cap (gray2bin aw (chain.getLastD 0)) k chain).getLastD 0 =
      bin2gray (forward cap (gray2bin aw (chain.getLastD 0)) k) := by
    simp only [catchUp]
    rw [List.getLastD_eq_getLast?, List.getLast?_map]
    rw [List.getLastD_eq_getLast?] at hseen ⊢
    rw [List.getLast?_eq_some_getLast hne] at hseen ⊢
    simp only [Option.map_some, Option.getD_some] at hseen ⊢
    rw [if_pos (by rw [dist_self hseen]; omega)]
  rw [this]
  subst hcap
  exact gray2bin_bin2gray (forward_lt hpos _ _)

theorem catchUp_stage_lt {seen : Nat} (h : ∀ g ∈ chain, g < cap) {g : Nat}
    (hg : g ∈ catchUp aw cap seen k chain) : g < cap := by
  obtain ⟨x, hx, rfl⟩ := List.mem_map.1 hg
  have hpos : 0 < cap := by have := h x hx; omega
  split
  · subst hcap; exact bin2gray_lt (forward_lt hpos _ _)
  · exact h x hx

/-- Catching up at most the lag keeps the chain in order: every lag becomes the smaller of itself and the new one. -/
theorem ChainOrdered.catchUp (h : ChainOrdered aw cap chain index) (hi : index < cap)
    (hlt : ∀ g ∈ chain, g < cap)
    (hk : k ≤ dist cap (gray2bin aw (chain.getLastD 0)) index) :
    ChainOrdered aw cap (catchUp aw cap (gray2bin aw (chain.getLastD 0)) k chain) index := by
  have hpos : 0 < cap := by omega
  have hdec : ∀ g, g < cap → gray2bin aw g < cap := fun g hg => by subst hcap; exact gray2bin_lt hg aw
  have hseen := hdec _ (getLastD_lt hpos hlt)
  set seen := gray2bin aw (chain.getLastD 0) with hs
  have hL := dist_lt hpos seen index
  have hl : lags aw cap (Machine.catchUp aw cap seen k chain) index =
      (lags aw cap chain index).map (min (dist cap seen index - k)) := by
    simp only [lags, Machine.catchUp, List.map_map]
    refine List.map_congr_left fun g hm => ?_
    have hle : dist cap (gray2bin aw g) index ≤ dist cap seen index := h.le_last hm
    have hg := hdec g (hlt g hm)
    have hsplit := dist_split_right hseen hg hi hle
    have hf := forward_lt hpos seen k
    have hd : dist cap seen (forward cap seen k) = k := dist_forward hseen (by omega)
    have hsp := dist_split hseen hf hi (by omega)
    simp only [Function.comp]
    split
    · have hb : gray2bin aw (bin2gray (forward cap seen k)) = forward cap seen k := by
        subst hcap; exact gray2bin_bin2gray hf
      rw [hb]
      omega
    · omega
  rw [ChainOrdered, hl]
  exact List.pairwise_map.2 (h.imp fun hab => by omega)

end catchUp

end Sys2Proof.Machine
end

