-- ==== Sys2Proof/Laws/State.lean ====
section
/-! SUPPORT. One lemma per field per update of State, each true by rfl, so that no later proof unfolds a record
update; and what the functions of the state (`aw`, `cap`, `headSeen`, `tailSeen`, the flags) become. -/

namespace Sys2Proof.Machine

namespace State

/-! `giveAnswer` -/

@[simp] theorem giveAnswer_params (s : State) (a : Answer) : (s.giveAnswer a).params = s.params := rfl
@[simp] theorem giveAnswer_slots (s : State) (a : Answer) : (s.giveAnswer a).slots = s.slots := rfl
@[simp] theorem giveAnswer_head (s : State) (a : Answer) : (s.giveAnswer a).head = s.head := rfl
@[simp] theorem giveAnswer_tail (s : State) (a : Answer) : (s.giveAnswer a).tail = s.tail := rfl
@[simp] theorem giveAnswer_headG (s : State) (a : Answer) : (s.giveAnswer a).headG = s.headG := rfl
@[simp] theorem giveAnswer_tailG (s : State) (a : Answer) : (s.giveAnswer a).tailG = s.tailG := rfl
@[simp] theorem giveAnswer_hsync (s : State) (a : Answer) : (s.giveAnswer a).hsync = s.hsync := rfl
@[simp] theorem giveAnswer_tsync (s : State) (a : Answer) : (s.giveAnswer a).tsync = s.tsync := rfl
@[simp] theorem giveAnswer_ctr (s : State) (a : Answer) : (s.giveAnswer a).ctr = s.ctr := rfl
@[simp] theorem giveAnswer_fifoPhase (s : State) (a : Answer) : (s.giveAnswer a).fifoPhase = s.fifoPhase := rfl
@[simp] theorem giveAnswer_ctrPhase (s : State) (a : Answer) : (s.giveAnswer a).ctrPhase = s.ctrPhase := rfl
@[simp] theorem giveAnswer_faulted (s : State) (a : Answer) : (s.giveAnswer a).faulted = s.faulted := rfl
@[simp] theorem giveAnswer_wrRst (s : State) (a : Answer) : (s.giveAnswer a).wrRst = s.wrRst := rfl
@[simp] theorem giveAnswer_rdRst (s : State) (a : Answer) : (s.giveAnswer a).rdRst = s.rdRst := rfl
@[simp] theorem giveAnswer_ctrRst (s : State) (a : Answer) : (s.giveAnswer a).ctrRst = s.ctrRst := rfl
@[simp] theorem giveAnswer_wrAck (s : State) (a : Answer) : (s.giveAnswer a).wrAck = s.wrAck := rfl
@[simp] theorem giveAnswer_rdOut (s : State) (a : Answer) : (s.giveAnswer a).rdOut = s.rdOut := rfl
@[simp] theorem giveAnswer_ctrOut (s : State) (a : Answer) : (s.giveAnswer a).ctrOut = s.ctrOut := rfl
@[simp] theorem giveAnswer_answers (s : State) (a : Answer) : (s.giveAnswer a).answers = s.answers ++ [a] := rfl
@[simp] theorem giveAnswer_input (s : State) (a : Answer) : (s.giveAnswer a).input = s.input := rfl
@[simp] theorem giveAnswer_stamp (s : State) (a : Answer) : (s.giveAnswer a).stamp = s.stamp := rfl
@[simp] theorem giveAnswer_cap (s : State) (a : Answer) : (s.giveAnswer a).cap = s.cap := rfl
@[simp] theorem giveAnswer_aw (s : State) (a : Answer) : (s.giveAnswer a).aw = s.aw := rfl
@[simp] theorem giveAnswer_headSeen (s : State) (a : Answer) : (s.giveAnswer a).headSeen = s.headSeen := rfl
@[simp] theorem giveAnswer_tailSeen (s : State) (a : Answer) : (s.giveAnswer a).tailSeen = s.tailSeen := rfl
@[simp] theorem giveAnswer_full (s : State) (a : Answer) : (s.giveAnswer a).full = s.full := rfl
@[simp] theorem giveAnswer_wrLen (s : State) (a : Answer) : (s.giveAnswer a).wrLen = s.wrLen := rfl
@[simp] theorem giveAnswer_wrIsEmpty (s : State) (a : Answer) : (s.giveAnswer a).wrIsEmpty = s.wrIsEmpty := rfl
@[simp] theorem giveAnswer_empty (s : State) (a : Answer) : (s.giveAnswer a).empty = s.empty := rfl
@[simp] theorem giveAnswer_rdLen (s : State) (a : Answer) : (s.giveAnswer a).rdLen = s.rdLen := rfl
@[simp] theorem giveAnswer_rdIsEmpty (s : State) (a : Answer) : (s.giveAnswer a).rdIsEmpty = s.rdIsEmpty := rfl
@[simp] theorem giveAnswer_busItem (s : State) (a : Answer) (x : Nat) : (s.giveAnswer a).busItem x = s.busItem x := rfl
@[simp] theorem giveAnswer_busCount (s : State) (a : Answer) (x : Nat) : (s.giveAnswer a).busCount x = s.busCount x := rfl

/-! `ackW` -/

@[simp] theorem ackW_params (s : State) (b : Bool) : (s.ackW b).params = s.params := rfl
@[simp] theorem ackW_slots (s : State) (b : Bool) : (s.ackW b).slots = s.slots := rfl
@[simp] theorem ackW_head (s : State) (b : Bool) : (s.ackW b).head = s.head := rfl
@[simp] theorem ackW_tail (s : State) (b : Bool) : (s.ackW b).tail = s.tail := rfl
@[simp] theorem ackW_headG (s : State) (b : Bool) : (s.ackW b).headG = s.headG := rfl
@[simp] theorem ackW_tailG (s : State) (b : Bool) : (s.ackW b).tailG = s.tailG := rfl
@[simp] theorem ackW_hsync (s : State) (b : Bool) : (s.ackW b).hsync = s.hsync := rfl
@[simp] theorem ackW_tsync (s : State) (b : Bool) : (s.ackW b).tsync = s.tsync := rfl
@[simp] theorem ackW_ctr (s : State) (b : Bool) : (s.ackW b).ctr = s.ctr := rfl
@[simp] theorem ackW_fifoPhase (s : State) (b : Bool) : (s.ackW b).fifoPhase = s.fifoPhase := rfl
@[simp] theorem ackW_ctrPhase (s : State) (b : Bool) : (s.ackW b).ctrPhase = s.ctrPhase := rfl
@[simp] theorem ackW_faulted (s : State) (b : Bool) : (s.ackW b).faulted = s.faulted := rfl
@[simp] theorem ackW_wrRst (s : State) (b : Bool) : (s.ackW b).wrRst = s.wrRst := rfl
@[simp] theorem ackW_rdRst (s : State) (b : Bool) : (s.ackW b).rdRst = s.rdRst := rfl
@[simp] theorem ackW_ctrRst (s : State) (b : Bool) : (s.ackW b).ctrRst = s.ctrRst := rfl
@[simp] theorem ackW_wrAck (s : State) (b : Bool) : (s.ackW b).wrAck = b := rfl
@[simp] theorem ackW_rdOut (s : State) (b : Bool) : (s.ackW b).rdOut = s.rdOut := rfl
@[simp] theorem ackW_ctrOut (s : State) (b : Bool) : (s.ackW b).ctrOut = s.ctrOut := rfl
@[simp] theorem ackW_answers (s : State) (b : Bool) : (s.ackW b).answers = s.answers := rfl
@[simp] theorem ackW_input (s : State) (b : Bool) : (s.ackW b).input = s.input := rfl
@[simp] theorem ackW_stamp (s : State) (b : Bool) : (s.ackW b).stamp = s.stamp := rfl
@[simp] theorem ackW_cap (s : State) (b : Bool) : (s.ackW b).cap = s.cap := rfl
@[simp] theorem ackW_aw (s : State) (b : Bool) : (s.ackW b).aw = s.aw := rfl
@[simp] theorem ackW_headSeen (s : State) (b : Bool) : (s.ackW b).headSeen = s.headSeen := rfl
@[simp] theorem ackW_tailSeen (s : State) (b : Bool) : (s.ackW b).tailSeen = s.tailSeen := rfl
@[simp] theorem ackW_full (s : State) (b : Bool) : (s.ackW b).full = s.full := rfl
@[simp] theorem ackW_wrLen (s : State) (b : Bool) : (s.ackW b).wrLen = s.wrLen := rfl
@[simp] theorem ackW_wrIsEmpty (s : State) (b : Bool) : (s.ackW b).wrIsEmpty = s.wrIsEmpty := rfl
@[simp] theorem ackW_empty (s : State) (b : Bool) : (s.ackW b).empty = s.empty := rfl
@[simp] theorem ackW_rdLen (s : State) (b : Bool) : (s.ackW b).rdLen = s.rdLen := rfl
@[simp] theorem ackW_rdIsEmpty (s : State) (b : Bool) : (s.ackW b).rdIsEmpty = s.rdIsEmpty := rfl
@[simp] theorem ackW_busItem (s : State) (b : Bool) (x : Nat) : (s.ackW b).busItem x = s.busItem x := rfl
@[simp] theorem ackW_busCount (s : State) (b : Bool) (x : Nat) : (s.ackW b).busCount x = s.busCount x := rfl

/-! `answerR` -/

@[simp] theorem answerR_params (s : State) (v : Option Nat) : (s.answerR v).params = s.params := rfl
@[simp] theorem answerR_slots (s : State) (v : Option Nat) : (s.answerR v).slots = s.slots := rfl
@[simp] theorem answerR_head (s : State) (v : Option Nat) : (s.answerR v).head = s.head := rfl
@[simp] theorem answerR_tail (s : State) (v : Option Nat) : (s.answerR v).tail = s.tail := rfl
@[simp] theorem answerR_headG (s : State) (v : Option Nat) : (s.answerR v).headG = s.headG := rfl
@[simp] theorem answerR_tailG (s : State) (v : Option Nat) : (s.answerR v).tailG = s.tailG := rfl
@[simp] theorem answerR_hsync (s : State) (v : Option Nat) : (s.answerR v).hsync = s.hsync := rfl
@[simp] theorem answerR_tsync (s : State) (v : Option Nat) : (s.answerR v).tsync = s.tsync := rfl
@[simp] theorem answerR_ctr (s : State) (v : Option Nat) : (s.answerR v).ctr = s.ctr := rfl
@[simp] theorem answerR_fifoPhase (s : State) (v : Option Nat) : (s.answerR v).fifoPhase = s.fifoPhase := rfl
@[simp] theorem answerR_ctrPhase (s : State) (v : Option Nat) : (s.answerR v).ctrPhase = s.ctrPhase := rfl
@[simp] theorem answerR_faulted (s : State) (v : Option Nat) : (s.answerR v).faulted = s.faulted := rfl
@[simp] theorem answerR_wrRst (s : State) (v : Option Nat) : (s.answerR v).wrRst = s.wrRst := rfl
@[simp] theorem answerR_rdRst (s : State) (v : Option Nat) : (s.answerR v).rdRst = s.rdRst := rfl
@[simp] theorem answerR_ctrRst (s : State) (v : Option Nat) : (s.answerR v).ctrRst = s.ctrRst := rfl
@[simp] theorem answerR_wrAck (s : State) (v : Option Nat) : (s.answerR v).wrAck = s.wrAck := rfl
@[simp] theorem answerR_rdOut (s : State) (v : Option Nat) : (s.answerR v).rdOut = v := rfl
@[simp] theorem answerR_ctrOut (s : State) (v : Option Nat) : (s.answerR v).ctrOut = s.ctrOut := rfl
@[simp] theorem answerR_answers (s : State) (v : Option Nat) : (s.answerR v).answers = s.answers := rfl
@[simp] theorem answerR_input (s : State) (v : Option Nat) : (s.answerR v).input = s.input := rfl
@[simp] theorem answerR_stamp (s : State) (v : Option Nat) : (s.answerR v).stamp = s.stamp := rfl
@[simp] theorem answerR_cap (s : State) (v : Option Nat) : (s.answerR v).cap = s.cap := rfl
@[simp] theorem answerR_aw (s : State) (v : Option Nat) : (s.answerR v).aw = s.aw := rfl
@[simp] theorem answerR_headSeen (s : State) (v : Option Nat) : (s.answerR v).headSeen = s.headSeen := rfl
@[simp] theorem answerR_tailSeen (s : State) (v : Option Nat) : (s.answerR v).tailSeen = s.tailSeen := rfl
@[simp] theorem answerR_full (s : State) (v : Option Nat) : (s.answerR v).full = s.full := rfl
@[simp] theorem answerR_wrLen (s : State) (v : Option Nat) : (s.answerR v).wrLen = s.wrLen := rfl
@[simp] theorem answerR_wrIsEmpty (s : State) (v : Option Nat) : (s.answerR v).wrIsEmpty = s.wrIsEmpty := rfl
@[simp] theorem answerR_empty (s : State) (v : Option Nat) : (s.answerR v).empty = s.empty := rfl
@[simp] theorem answerR_rdLen (s : State) (v : Option Nat) : (s.answerR v).rdLen = s.rdLen := rfl
@[simp] theorem answerR_rdIsEmpty (s : State) (v : Option Nat) : (s.answerR v).rdIsEmpty = s.rdIsEmpty := rfl
@[simp] theorem answerR_busItem (s : State) (v : Option Nat) (x : Nat) : (s.answerR v).busItem x = s.busItem x := rfl
@[simp] theorem answerR_busCount (s : State) (v : Option Nat) (x : Nat) : (s.answerR v).busCount x = s.busCount x := rfl

/-! `setCtrOut` -/

@[simp] theorem setCtrOut_params (s : State) (i : Nat) (v : Option Nat) : (s.setCtrOut i v).params = s.params := rfl
@[simp] theorem setCtrOut_slots (s : State) (i : Nat) (v : Option Nat) : (s.setCtrOut i v).slots = s.slots := rfl
@[simp] theorem setCtrOut_head (s : State) (i : Nat) (v : Option Nat) : (s.setCtrOut i v).head = s.head := rfl
@[simp] theorem setCtrOut_tail (s : State) (i : Nat) (v : Option Nat) : (s.setCtrOut i v).tail = s.tail := rfl
@[simp] theorem setCtrOut_headG (s : State) (i : Nat) (v : Option Nat) : (s.setCtrOut i v).headG = s.headG := rfl
@[simp] theorem setCtrOut_tailG (s : State) (i : Nat) (v : Option Nat) : (s.setCtrOut i v).tailG = s.tailG := rfl
@[simp] theorem setCtrOut_hsync (s : State) (i : Nat) (v : Option Nat) : (s.setCtrOut i v).hsync = s.hsync := rfl
@[simp] theorem setCtrOut_tsync (s : State) (i : Nat) (v : Option Nat) : (s.setCtrOut i v).tsync = s.tsync := rfl
@[simp] theorem setCtrOut_ctr (s : State) (i : Nat) (v : Option Nat) : (s.setCtrOut i v).ctr = s.ctr := rfl
@[simp] theorem setCtrOut_fifoPhase (s : State) (i : Nat) (v : Option Nat) : (s.setCtrOut i v).fifoPhase = s.fifoPhase := rfl
@[simp] theorem setCtrOut_ctrPhase (s : State) (i : Nat) (v : Option Nat) : (s.setCtrOut i v).ctrPhase = s.ctrPhase := rfl
@[simp] theorem setCtrOut_faulted (s : State) (i : Nat) (v : Option Nat) : (s.setCtrOut i v).faulted = s.faulted := rfl
@[simp] theorem setCtrOut_wrRst (s : State) (i : Nat) (v : Option Nat) : (s.setCtrOut i v).wrRst = s.wrRst := rfl
@[simp] theorem setCtrOut_rdRst (s : State) (i : Nat) (v : Option Nat) : (s.setCtrOut i v).rdRst = s.rdRst := rfl
@[simp] theorem setCtrOut_ctrRst (s : State) (i : Nat) (v : Option Nat) : (s.setCtrOut i v).ctrRst = s.ctrRst := rfl
@[simp] theorem setCtrOut_wrAck (s : State) (i : Nat) (v : Option Nat) : (s.setCtrOut i v).wrAck = s.wrAck := rfl
@[simp] theorem setCtrOut_rdOut (s : State) (i : Nat) (v : Option Nat) : (s.setCtrOut i v).rdOut = s.rdOut := rfl
@[simp] theorem setCtrOut_ctrOut (s : State) (i : Nat) (v : Option Nat) : (s.setCtrOut i v).ctrOut = s.ctrOut.set i v := rfl
@[simp] theorem setCtrOut_answers (s : State) (i : Nat) (v : Option Nat) : (s.setCtrOut i v).answers = s.answers := rfl
@[simp] theorem setCtrOut_input (s : State) (i : Nat) (v : Option Nat) : (s.setCtrOut i v).input = s.input := rfl
@[simp] theorem setCtrOut_stamp (s : State) (i : Nat) (v : Option Nat) : (s.setCtrOut i v).stamp = s.stamp := rfl
@[simp] theorem setCtrOut_cap (s : State) (i : Nat) (v : Option Nat) : (s.setCtrOut i v).cap = s.cap := rfl
@[simp] theorem setCtrOut_aw (s : State) (i : Nat) (v : Option Nat) : (s.setCtrOut i v).aw = s.aw := rfl
@[simp] theorem setCtrOut_headSeen (s : State) (i : Nat) (v : Option Nat) : (s.setCtrOut i v).headSeen = s.headSeen := rfl
@[simp] theorem setCtrOut_tailSeen (s : State) (i : Nat) (v : Option Nat) : (s.setCtrOut i v).tailSeen = s.tailSeen := rfl
@[simp] theorem setCtrOut_full (s : State) (i : Nat) (v : Option Nat) : (s.setCtrOut i v).full = s.full := rfl
@[simp] theorem setCtrOut_wrLen (s : State) (i : Nat) (v : Option Nat) : (s.setCtrOut i v).wrLen = s.wrLen := rfl
@[simp] theorem setCtrOut_wrIsEmpty (s : State) (i : Nat) (v : Option Nat) : (s.setCtrOut i v).wrIsEmpty = s.wrIsEmpty := rfl
@[simp] theorem setCtrOut_empty (s : State) (i : Nat) (v : Option Nat) : (s.setCtrOut i v).empty = s.empty := rfl
@[simp] theorem setCtrOut_rdLen (s : State) (i : Nat) (v : Option Nat) : (s.setCtrOut i v).rdLen = s.rdLen := rfl
@[simp] theorem setCtrOut_rdIsEmpty (s : State) (i : Nat) (v : Option Nat) : (s.setCtrOut i v).rdIsEmpty = s.rdIsEmpty := rfl
@[simp] theorem setCtrOut_busItem (s : State) (i : Nat) (v : Option Nat) (x : Nat) : (s.setCtrOut i v).busItem x = s.busItem x := rfl
@[simp] theorem setCtrOut_busCount (s : State) (i : Nat) (v : Option Nat) (x : Nat) : (s.setCtrOut i v).busCount x = s.busCount x := rfl

/-! `publishHead` -/

@[simp] theorem publishHead_params (s : State) (d : Nat) : (s.publishHead d).params = s.params := rfl
@[simp] theorem publishHead_slots (s : State) (d : Nat) : (s.publishHead d).slots = s.slots.write s.head (.full d) := rfl
@[simp] theorem publishHead_head (s : State) (d : Nat) : (s.publishHead d).head = inc s.cap s.head := rfl
@[simp] theorem publishHead_tail (s : State) (d : Nat) : (s.publishHead d).tail = s.tail := rfl
@[simp] theorem publishHead_headG (s : State) (d : Nat) : (s.publishHead d).headG = bin2gray (inc s.cap s.head) := rfl
@[simp] theorem publishHead_tailG (s : State) (d : Nat) : (s.publishHead d).tailG = s.tailG := rfl
@[simp] theorem publishHead_hsync (s : State) (d : Nat) : (s.publishHead d).hsync = s.hsync := rfl
@[simp] theorem publishHead_tsync (s : State) (d : Nat) : (s.publishHead d).tsync = s.tsync := rfl
@[simp] theorem publishHead_ctr (s : State) (d : Nat) : (s.publishHead d).ctr = s.ctr := rfl
@[simp] theorem publishHead_fifoPhase (s : State) (d : Nat) : (s.publishHead d).fifoPhase = s.fifoPhase := rfl
@[simp] theorem publishHead_ctrPhase (s : State) (d : Nat) : (s.publishHead d).ctrPhase = s.ctrPhase := rfl
@[simp] theorem publishHead_faulted (s : State) (d : Nat) : (s.publishHead d).faulted = s.faulted := rfl
@[simp] theorem publishHead_wrRst (s : State) (d : Nat) : (s.publishHead d).wrRst = s.wrRst := rfl
@[simp] theorem publishHead_rdRst (s : State) (d : Nat) : (s.publishHead d).rdRst = s.rdRst := rfl
@[simp] theorem publishHead_ctrRst (s : State) (d : Nat) : (s.publishHead d).ctrRst = s.ctrRst := rfl
@[simp] theorem publishHead_wrAck (s : State) (d : Nat) : (s.publishHead d).wrAck = s.wrAck := rfl
@[simp] theorem publishHead_rdOut (s : State) (d : Nat) : (s.publishHead d).rdOut = s.rdOut := rfl
@[simp] theorem publishHead_ctrOut (s : State) (d : Nat) : (s.publishHead d).ctrOut = s.ctrOut := rfl
@[simp] theorem publishHead_answers (s : State) (d : Nat) : (s.publishHead d).answers = s.answers := rfl
@[simp] theorem publishHead_input (s : State) (d : Nat) : (s.publishHead d).input = s.input := rfl
@[simp] theorem publishHead_stamp (s : State) (d : Nat) : (s.publishHead d).stamp = s.stamp := rfl
@[simp] theorem publishHead_cap (s : State) (d : Nat) : (s.publishHead d).cap = s.cap := rfl
@[simp] theorem publishHead_aw (s : State) (d : Nat) : (s.publishHead d).aw = s.aw := rfl
@[simp] theorem publishHead_headSeen (s : State) (d : Nat) : (s.publishHead d).headSeen = s.headSeen := rfl
@[simp] theorem publishHead_tailSeen (s : State) (d : Nat) : (s.publishHead d).tailSeen = s.tailSeen := rfl
@[simp] theorem publishHead_empty (s : State) (d : Nat) : (s.publishHead d).empty = s.empty := rfl
@[simp] theorem publishHead_rdLen (s : State) (d : Nat) : (s.publishHead d).rdLen = s.rdLen := rfl
@[simp] theorem publishHead_rdIsEmpty (s : State) (d : Nat) : (s.publishHead d).rdIsEmpty = s.rdIsEmpty := rfl
@[simp] theorem publishHead_busItem (s : State) (d : Nat) (x : Nat) : (s.publishHead d).busItem x = s.busItem x := rfl
@[simp] theorem publishHead_busCount (s : State) (d : Nat) (x : Nat) : (s.publishHead d).busCount x = s.busCount x := rfl

/-! `publishTail` -/

@[simp] theorem publishTail_params (s : State) : (s.publishTail).params = s.params := rfl
@[simp] theorem publishTail_slots (s : State) : (s.publishTail).slots = s.slots.write s.tail .empty := rfl
@[simp] theorem publishTail_head (s : State) : (s.publishTail).head = s.head := rfl
@[simp] theorem publishTail_tail (s : State) : (s.publishTail).tail = inc s.cap s.tail := rfl
@[simp] theorem publishTail_headG (s : State) : (s.publishTail).headG = s.headG := rfl
@[simp] theorem publishTail_tailG (s : State) : (s.publishTail).tailG = bin2gray (inc s.cap s.tail) := rfl
@[simp] theorem publishTail_hsync (s : State) : (s.publishTail).hsync = s.hsync := rfl
@[simp] theorem publishTail_tsync (s : State) : (s.publishTail).tsync = s.tsync := rfl
@[simp] theorem publishTail_ctr (s : State) : (s.publishTail).ctr = s.ctr := rfl
@[simp] theorem publishTail_fifoPhase (s : State) : (s.publishTail).fifoPhase = s.fifoPhase := rfl
@[simp] theorem publishTail_ctrPhase (s : State) : (s.publishTail).ctrPhase = s.ctrPhase := rfl
@[simp] theorem publishTail_faulted (s : State) : (s.publishTail).faulted = s.faulted := rfl
@[simp] theorem publishTail_wrRst (s : State) : (s.publishTail).wrRst = s.wrRst := rfl
@[simp] theorem publishTail_rdRst (s : State) : (s.publishTail).rdRst = s.rdRst := rfl
@[simp] theorem publishTail_ctrRst (s : State) : (s.publishTail).ctrRst = s.ctrRst := rfl
@[simp] theorem publishTail_wrAck (s : State) : (s.publishTail).wrAck = s.wrAck := rfl
@[simp] theorem publishTail_rdOut (s : State) : (s.publishTail).rdOut = s.rdOut := rfl
@[simp] theorem publishTail_ctrOut (s : State) : (s.publishTail).ctrOut = s.ctrOut := rfl
@[simp] theorem publishTail_answers (s : State) : (s.publishTail).answers = s.answers := rfl
@[simp] theorem publishTail_input (s : State) : (s.publishTail).input = s.input := rfl
@[simp] theorem publishTail_stamp (s : State) : (s.publishTail).stamp = s.stamp := rfl
@[simp] theorem publishTail_cap (s : State) : (s.publishTail).cap = s.cap := rfl
@[simp] theorem publishTail_aw (s : State) : (s.publishTail).aw = s.aw := rfl
@[simp] theorem publishTail_headSeen (s : State) : (s.publishTail).headSeen = s.headSeen := rfl
@[simp] theorem publishTail_tailSeen (s : State) : (s.publishTail).tailSeen = s.tailSeen := rfl
@[simp] theorem publishTail_full (s : State) : (s.publishTail).full = s.full := rfl
@[simp] theorem publishTail_wrLen (s : State) : (s.publishTail).wrLen = s.wrLen := rfl
@[simp] theorem publishTail_wrIsEmpty (s : State) : (s.publishTail).wrIsEmpty = s.wrIsEmpty := rfl
@[simp] theorem publishTail_busItem (s : State) (x : Nat) : (s.publishTail).busItem x = s.busItem x := rfl
@[simp] theorem publishTail_busCount (s : State) (x : Nat) : (s.publishTail).busCount x = s.busCount x := rfl

/-! `resetFifo` -/

@[simp] theorem resetFifo_params (s : State) : (s.resetFifo).params = s.params := rfl
@[simp] theorem resetFifo_slots (s : State) : (s.resetFifo).slots = [] := rfl
@[simp] theorem resetFifo_head (s : State) : (s.resetFifo).head = 0 := rfl
@[simp] theorem resetFifo_tail (s : State) : (s.resetFifo).tail = 0 := rfl
@[simp] theorem resetFifo_headG (s : State) : (s.resetFifo).headG = 0 := rfl
@[simp] theorem resetFifo_tailG (s : State) : (s.resetFifo).tailG = 0 := rfl
@[simp] theorem resetFifo_hsync (s : State) : (s.resetFifo).hsync = List.replicate s.params.stages 0 := rfl
@[simp] theorem resetFifo_tsync (s : State) : (s.resetFifo).tsync = List.replicate s.params.stages 0 := rfl
@[simp] theorem resetFifo_ctr (s : State) : (s.resetFifo).ctr = s.ctr := rfl
@[simp] theorem resetFifo_fifoPhase (s : State) : (s.resetFifo).fifoPhase = .inReset := rfl
@[simp] theorem resetFifo_ctrPhase (s : State) : (s.resetFifo).ctrPhase = s.ctrPhase := rfl
@[simp] theorem resetFifo_faulted (s : State) : (s.resetFifo).faulted = s.faulted := rfl
@[simp] theorem resetFifo_wrRst (s : State) : (s.resetFifo).wrRst = .held := rfl
@[simp] theorem resetFifo_rdRst (s : State) : (s.resetFifo).rdRst = .held := rfl
@[simp] theorem resetFifo_ctrRst (s : State) : (s.resetFifo).ctrRst = s.ctrRst := rfl
@[simp] theorem resetFifo_wrAck (s : State) : (s.resetFifo).wrAck = false := rfl
@[simp] theorem resetFifo_rdOut (s : State) : (s.resetFifo).rdOut = none := rfl
@[simp] theorem resetFifo_ctrOut (s : State) : (s.resetFifo).ctrOut = s.ctrOut := rfl
@[simp] theorem resetFifo_answers (s : State) : (s.resetFifo).answers = s.answers := rfl
@[simp] theorem resetFifo_input (s : State) : (s.resetFifo).input = s.input := rfl
@[simp] theorem resetFifo_stamp (s : State) : (s.resetFifo).stamp = s.stamp := rfl
@[simp] theorem resetFifo_cap (s : State) : (s.resetFifo).cap = s.cap := rfl
@[simp] theorem resetFifo_aw (s : State) : (s.resetFifo).aw = s.aw := rfl
@[simp] theorem resetFifo_busItem (s : State) (x : Nat) : (s.resetFifo).busItem x = s.busItem x := rfl
@[simp] theorem resetFifo_busCount (s : State) (x : Nat) : (s.resetFifo).busCount x = s.busCount x := rfl

/-! `resetCtr` -/

@[simp] theorem resetCtr_params (s : State) : (s.resetCtr).params = s.params := rfl
@[simp] theorem resetCtr_slots (s : State) : (s.resetCtr).slots = s.slots := rfl
@[simp] theorem resetCtr_head (s : State) : (s.resetCtr).head = s.head := rfl
@[simp] theorem resetCtr_tail (s : State) : (s.resetCtr).tail = s.tail := rfl
@[simp] theorem resetCtr_headG (s : State) : (s.resetCtr).headG = s.headG := rfl
@[simp] theorem resetCtr_tailG (s : State) : (s.resetCtr).tailG = s.tailG := rfl
@[simp] theorem resetCtr_hsync (s : State) : (s.resetCtr).hsync = s.hsync := rfl
@[simp] theorem resetCtr_tsync (s : State) : (s.resetCtr).tsync = s.tsync := rfl
@[simp] theorem resetCtr_ctr (s : State) : (s.resetCtr).ctr = s.busCount s.params.init := rfl
@[simp] theorem resetCtr_fifoPhase (s : State) : (s.resetCtr).fifoPhase = s.fifoPhase := rfl
@[simp] theorem resetCtr_ctrPhase (s : State) : (s.resetCtr).ctrPhase = .inReset := rfl
@[simp] theorem resetCtr_faulted (s : State) : (s.resetCtr).faulted = s.faulted := rfl
@[simp] theorem resetCtr_wrRst (s : State) : (s.resetCtr).wrRst = s.wrRst := rfl
@[simp] theorem resetCtr_rdRst (s : State) : (s.resetCtr).rdRst = s.rdRst := rfl
@[simp] theorem resetCtr_ctrRst (s : State) : (s.resetCtr).ctrRst = .held := rfl
@[simp] theorem resetCtr_wrAck (s : State) : (s.resetCtr).wrAck = s.wrAck := rfl
@[simp] theorem resetCtr_rdOut (s : State) : (s.resetCtr).rdOut = s.rdOut := rfl
@[simp] theorem resetCtr_ctrOut (s : State) : (s.resetCtr).ctrOut = List.replicate s.params.ports none := rfl
@[simp] theorem resetCtr_answers (s : State) : (s.resetCtr).answers = s.answers := rfl
@[simp] theorem resetCtr_input (s : State) : (s.resetCtr).input = s.input := rfl
@[simp] theorem resetCtr_stamp (s : State) : (s.resetCtr).stamp = s.stamp := rfl
@[simp] theorem resetCtr_cap (s : State) : (s.resetCtr).cap = s.cap := rfl
@[simp] theorem resetCtr_aw (s : State) : (s.resetCtr).aw = s.aw := rfl
@[simp] theorem resetCtr_headSeen (s : State) : (s.resetCtr).headSeen = s.headSeen := rfl
@[simp] theorem resetCtr_tailSeen (s : State) : (s.resetCtr).tailSeen = s.tailSeen := rfl
@[simp] theorem resetCtr_full (s : State) : (s.resetCtr).full = s.full := rfl
@[simp] theorem resetCtr_wrLen (s : State) : (s.resetCtr).wrLen = s.wrLen := rfl
@[simp] theorem resetCtr_wrIsEmpty (s : State) : (s.resetCtr).wrIsEmpty = s.wrIsEmpty := rfl
@[simp] theorem resetCtr_empty (s : State) : (s.resetCtr).empty = s.empty := rfl
@[simp] theorem resetCtr_rdLen (s : State) : (s.resetCtr).rdLen = s.rdLen := rfl
@[simp] theorem resetCtr_rdIsEmpty (s : State) : (s.resetCtr).rdIsEmpty = s.rdIsEmpty := rfl
@[simp] theorem resetCtr_busItem (s : State) (x : Nat) : (s.resetCtr).busItem x = s.busItem x := rfl
@[simp] theorem resetCtr_busCount (s : State) (x : Nat) : (s.resetCtr).busCount x = s.busCount x := rfl

/-! `recordFault` -/

@[simp] theorem recordFault_params (s : State) (f : Fault) : (s.recordFault f).params = s.params := rfl
@[simp] theorem recordFault_slots (s : State) (f : Fault) : (s.recordFault f).slots = s.slots := rfl
@[simp] theorem recordFault_head (s : State) (f : Fault) : (s.recordFault f).head = s.head := rfl
@[simp] theorem recordFault_tail (s : State) (f : Fault) : (s.recordFault f).tail = s.tail := rfl
@[simp] theorem recordFault_headG (s : State) (f : Fault) : (s.recordFault f).headG = s.headG := rfl
@[simp] theorem recordFault_tailG (s : State) (f : Fault) : (s.recordFault f).tailG = s.tailG := rfl
@[simp] theorem recordFault_hsync (s : State) (f : Fault) : (s.recordFault f).hsync = s.hsync := rfl
@[simp] theorem recordFault_tsync (s : State) (f : Fault) : (s.recordFault f).tsync = s.tsync := rfl
@[simp] theorem recordFault_ctr (s : State) (f : Fault) : (s.recordFault f).ctr = s.ctr := rfl
@[simp] theorem recordFault_fifoPhase (s : State) (f : Fault) : (s.recordFault f).fifoPhase = s.fifoPhase := rfl
@[simp] theorem recordFault_ctrPhase (s : State) (f : Fault) : (s.recordFault f).ctrPhase = s.ctrPhase := rfl
@[simp] theorem recordFault_faulted (s : State) (f : Fault) : (s.recordFault f).faulted = recordIn f s.faulted := rfl
@[simp] theorem recordFault_wrRst (s : State) (f : Fault) : (s.recordFault f).wrRst = s.wrRst := rfl
@[simp] theorem recordFault_rdRst (s : State) (f : Fault) : (s.recordFault f).rdRst = s.rdRst := rfl
@[simp] theorem recordFault_ctrRst (s : State) (f : Fault) : (s.recordFault f).ctrRst = s.ctrRst := rfl
@[simp] theorem recordFault_wrAck (s : State) (f : Fault) : (s.recordFault f).wrAck = s.wrAck := rfl
@[simp] theorem recordFault_rdOut (s : State) (f : Fault) : (s.recordFault f).rdOut = s.rdOut := rfl
@[simp] theorem recordFault_ctrOut (s : State) (f : Fault) : (s.recordFault f).ctrOut = s.ctrOut := rfl
@[simp] theorem recordFault_answers (s : State) (f : Fault) : (s.recordFault f).answers = s.answers := rfl
@[simp] theorem recordFault_input (s : State) (f : Fault) : (s.recordFault f).input = s.input := rfl
@[simp] theorem recordFault_stamp (s : State) (f : Fault) : (s.recordFault f).stamp = s.stamp := rfl
@[simp] theorem recordFault_cap (s : State) (f : Fault) : (s.recordFault f).cap = s.cap := rfl
@[simp] theorem recordFault_aw (s : State) (f : Fault) : (s.recordFault f).aw = s.aw := rfl
@[simp] theorem recordFault_headSeen (s : State) (f : Fault) : (s.recordFault f).headSeen = s.headSeen := rfl
@[simp] theorem recordFault_tailSeen (s : State) (f : Fault) : (s.recordFault f).tailSeen = s.tailSeen := rfl
@[simp] theorem recordFault_full (s : State) (f : Fault) : (s.recordFault f).full = s.full := rfl
@[simp] theorem recordFault_wrLen (s : State) (f : Fault) : (s.recordFault f).wrLen = s.wrLen := rfl
@[simp] theorem recordFault_wrIsEmpty (s : State) (f : Fault) : (s.recordFault f).wrIsEmpty = s.wrIsEmpty := rfl
@[simp] theorem recordFault_empty (s : State) (f : Fault) : (s.recordFault f).empty = s.empty := rfl
@[simp] theorem recordFault_rdLen (s : State) (f : Fault) : (s.recordFault f).rdLen = s.rdLen := rfl
@[simp] theorem recordFault_rdIsEmpty (s : State) (f : Fault) : (s.recordFault f).rdIsEmpty = s.rdIsEmpty := rfl
@[simp] theorem recordFault_busItem (s : State) (f : Fault) (x : Nat) : (s.recordFault f).busItem x = s.busItem x := rfl
@[simp] theorem recordFault_busCount (s : State) (f : Fault) (x : Nat) : (s.recordFault f).busCount x = s.busCount x := rfl

/-! `consume` -/

@[simp] theorem consume_params (s : State) (r : List Input) : (s.consume r).params = s.params := rfl
@[simp] theorem consume_slots (s : State) (r : List Input) : (s.consume r).slots = s.slots := rfl
@[simp] theorem consume_head (s : State) (r : List Input) : (s.consume r).head = s.head := rfl
@[simp] theorem consume_tail (s : State) (r : List Input) : (s.consume r).tail = s.tail := rfl
@[simp] theorem consume_headG (s : State) (r : List Input) : (s.consume r).headG = s.headG := rfl
@[simp] theorem consume_tailG (s : State) (r : List Input) : (s.consume r).tailG = s.tailG := rfl
@[simp] theorem consume_hsync (s : State) (r : List Input) : (s.consume r).hsync = s.hsync := rfl
@[simp] theorem consume_tsync (s : State) (r : List Input) : (s.consume r).tsync = s.tsync := rfl
@[simp] theorem consume_ctr (s : State) (r : List Input) : (s.consume r).ctr = s.ctr := rfl
@[simp] theorem consume_fifoPhase (s : State) (r : List Input) : (s.consume r).fifoPhase = s.fifoPhase := rfl
@[simp] theorem consume_ctrPhase (s : State) (r : List Input) : (s.consume r).ctrPhase = s.ctrPhase := rfl
@[simp] theorem consume_faulted (s : State) (r : List Input) : (s.consume r).faulted = s.faulted := rfl
@[simp] theorem consume_wrRst (s : State) (r : List Input) : (s.consume r).wrRst = s.wrRst := rfl
@[simp] theorem consume_rdRst (s : State) (r : List Input) : (s.consume r).rdRst = s.rdRst := rfl
@[simp] theorem consume_ctrRst (s : State) (r : List Input) : (s.consume r).ctrRst = s.ctrRst := rfl
@[simp] theorem consume_wrAck (s : State) (r : List Input) : (s.consume r).wrAck = s.wrAck := rfl
@[simp] theorem consume_rdOut (s : State) (r : List Input) : (s.consume r).rdOut = s.rdOut := rfl
@[simp] theorem consume_ctrOut (s : State) (r : List Input) : (s.consume r).ctrOut = s.ctrOut := rfl
@[simp] theorem consume_answers (s : State) (r : List Input) : (s.consume r).answers = [] := rfl
@[simp] theorem consume_input (s : State) (r : List Input) : (s.consume r).input = r := rfl
@[simp] theorem consume_stamp (s : State) (r : List Input) : (s.consume r).stamp = s.stamp + 1 := rfl
@[simp] theorem consume_cap (s : State) (r : List Input) : (s.consume r).cap = s.cap := rfl
@[simp] theorem consume_aw (s : State) (r : List Input) : (s.consume r).aw = s.aw := rfl
@[simp] theorem consume_headSeen (s : State) (r : List Input) : (s.consume r).headSeen = s.headSeen := rfl
@[simp] theorem consume_tailSeen (s : State) (r : List Input) : (s.consume r).tailSeen = s.tailSeen := rfl
@[simp] theorem consume_full (s : State) (r : List Input) : (s.consume r).full = s.full := rfl
@[simp] theorem consume_wrLen (s : State) (r : List Input) : (s.consume r).wrLen = s.wrLen := rfl
@[simp] theorem consume_wrIsEmpty (s : State) (r : List Input) : (s.consume r).wrIsEmpty = s.wrIsEmpty := rfl
@[simp] theorem consume_empty (s : State) (r : List Input) : (s.consume r).empty = s.empty := rfl
@[simp] theorem consume_rdLen (s : State) (r : List Input) : (s.consume r).rdLen = s.rdLen := rfl
@[simp] theorem consume_rdIsEmpty (s : State) (r : List Input) : (s.consume r).rdIsEmpty = s.rdIsEmpty := rfl
@[simp] theorem consume_busItem (s : State) (r : List Input) (x : Nat) : (s.consume r).busItem x = s.busItem x := rfl
@[simp] theorem consume_busCount (s : State) (r : List Input) (x : Nat) : (s.consume r).busCount x = s.busCount x := rfl

/-! `outOfReset` -/

@[simp] theorem outOfReset_params (s : State) : (s.outOfReset).params = s.params := rfl
@[simp] theorem outOfReset_slots (s : State) : (s.outOfReset).slots = s.slots := rfl
@[simp] theorem outOfReset_head (s : State) : (s.outOfReset).head = s.head := rfl
@[simp] theorem outOfReset_tail (s : State) : (s.outOfReset).tail = s.tail := rfl
@[simp] theorem outOfReset_headG (s : State) : (s.outOfReset).headG = s.headG := rfl
@[simp] theorem outOfReset_tailG (s : State) : (s.outOfReset).tailG = s.tailG := rfl
@[simp] theorem outOfReset_hsync (s : State) : (s.outOfReset).hsync = s.hsync := rfl
@[simp] theorem outOfReset_tsync (s : State) : (s.outOfReset).tsync = s.tsync := rfl
@[simp] theorem outOfReset_ctr (s : State) : (s.outOfReset).ctr = s.ctr := rfl
@[simp] theorem outOfReset_fifoPhase (s : State) : (s.outOfReset).fifoPhase = .live := rfl
@[simp] theorem outOfReset_ctrPhase (s : State) : (s.outOfReset).ctrPhase = .live := rfl
@[simp] theorem outOfReset_faulted (s : State) : (s.outOfReset).faulted = s.faulted := rfl
@[simp] theorem outOfReset_wrRst (s : State) : (s.outOfReset).wrRst = .out := rfl
@[simp] theorem outOfReset_rdRst (s : State) : (s.outOfReset).rdRst = .out := rfl
@[simp] theorem outOfReset_ctrRst (s : State) : (s.outOfReset).ctrRst = .out := rfl
@[simp] theorem outOfReset_wrAck (s : State) : (s.outOfReset).wrAck = s.wrAck := rfl
@[simp] theorem outOfReset_rdOut (s : State) : (s.outOfReset).rdOut = s.rdOut := rfl
@[simp] theorem outOfReset_ctrOut (s : State) : (s.outOfReset).ctrOut = s.ctrOut := rfl
@[simp] theorem outOfReset_answers (s : State) : (s.outOfReset).answers = s.answers := rfl
@[simp] theorem outOfReset_input (s : State) : (s.outOfReset).input = s.input := rfl
@[simp] theorem outOfReset_stamp (s : State) : (s.outOfReset).stamp = s.stamp := rfl
@[simp] theorem outOfReset_cap (s : State) : (s.outOfReset).cap = s.cap := rfl
@[simp] theorem outOfReset_aw (s : State) : (s.outOfReset).aw = s.aw := rfl
@[simp] theorem outOfReset_headSeen (s : State) : (s.outOfReset).headSeen = s.headSeen := rfl
@[simp] theorem outOfReset_tailSeen (s : State) : (s.outOfReset).tailSeen = s.tailSeen := rfl
@[simp] theorem outOfReset_full (s : State) : (s.outOfReset).full = s.full := rfl
@[simp] theorem outOfReset_wrLen (s : State) : (s.outOfReset).wrLen = s.wrLen := rfl
@[simp] theorem outOfReset_wrIsEmpty (s : State) : (s.outOfReset).wrIsEmpty = s.wrIsEmpty := rfl
@[simp] theorem outOfReset_empty (s : State) : (s.outOfReset).empty = s.empty := rfl
@[simp] theorem outOfReset_rdLen (s : State) : (s.outOfReset).rdLen = s.rdLen := rfl
@[simp] theorem outOfReset_rdIsEmpty (s : State) : (s.outOfReset).rdIsEmpty = s.rdIsEmpty := rfl
@[simp] theorem outOfReset_busItem (s : State) (x : Nat) : (s.outOfReset).busItem x = s.busItem x := rfl
@[simp] theorem outOfReset_busCount (s : State) (x : Nat) : (s.outOfReset).busCount x = s.busCount x := rfl

end State

end Sys2Proof.Machine
end

