-- ==== Sys2Proof/Laws/Exec.lean ====
section
/-! SUPPORT. What each shared operation, each operation of the table, a line and a step can do: one lemma each, "if it
answers next t, then ...", for later proofs to cite instead of unfolding it. -/

namespace Sys2Proof.Machine

variable {s t : State}

@[simp] theorem next_inj {a b : State} :
    ((.next a : Host.Outcome State Fault Refusal) = .next b) ↔ a = b := by
  constructor
  · intro h; cases h; rfl
  · rintro rfl; rfl

/-! ## Shared operations -/

theorem whileFifoLive_live (h : s.fifoPhase = .live) (o : Host.Outcome State Fault Refusal) :
    whileFifoLive s o = o := by simp [whileFifoLive, h]

theorem whileFifoLive_inReset (h : s.fifoPhase = .inReset) (o : Host.Outcome State Fault Refusal) :
    whileFifoLive s o = .refused .operationInReset := by simp [whileFifoLive, h]

theorem whileFifoLive_next {o : Host.Outcome State Fault Refusal} :
    whileFifoLive s o = .next t ↔ s.fifoPhase = .live ∧ o = .next t := by
  unfold whileFifoLive; split <;> simp_all

theorem withCell_eq {i : Nat} (h : i < s.cap) (f : Cell → Host.Outcome State Fault Refusal) :
    s.withCell i f = f (s.slots.read i) := if_pos h

theorem withCell_next {i : Nat} {f : Cell → Host.Outcome State Fault Refusal} :
    s.withCell i f = .next t ↔ i < s.cap ∧ f (s.slots.read i) = .next t := by
  unfold State.withCell; split <;> simp_all

theorem syncStep_next {k lag : Nat} {n : State} :
    syncStep s k lag n = .next t ↔ s.fifoPhase = .live ∧ (1 ≤ k ∧ k ≤ lag) ∧ n = t := by
  unfold syncStep; rw [whileFifoLive_next]; split <;> simp_all

/-- The state a counter operation leaves (45_counter.md R172 to R176). -/
def counterNext (s : State) (p c : Nat) (v : Option Nat) : State :=
  match v with
  | some x => ({ s with ctr := c }.setCtrOut p (some x)).giveAnswer (.value p x)
  | none => { s with ctr := c }.setCtrOut p none

theorem counterOp_next {p c : Nat} {v : Option Nat} :
    counterOp s p c v = .next t ↔ p < s.params.ports ∧ s.ctrPhase = .live ∧ t = counterNext s p c v := by
  unfold counterOp counterNext
  split
  · cases h : s.ctrPhase <;> cases v <;> simp [*, @eq_comm _ t]
  · simp [*]

theorem andThen_next {o : Host.Outcome State Fault Refusal} {f : State → Host.Outcome State Fault Refusal} :
    andThen o f = .next t ↔ ∃ u, o = .next u ∧ f u = .next t := by
  cases o <;> simp [andThen]

theorem andThen_fault {o : Host.Outcome State Fault Refusal} {f : State → Host.Outcome State Fault Refusal}
    {e : Fault} : andThen o f = .fault e ↔ o = .fault e ∨ ∃ u, o = .next u ∧ f u = .fault e := by
  cases o <;> simp [andThen]

/-! ## SEND and RECV -/

/-- Everything a SEND that completes can do (41_fifo_send.md R120). -/
theorem execSend_next {item : Nat} :
    execSend item s = .next t ↔
      s.fifoPhase = .live ∧
        ((s.full = true ∧ t = (s.ackW false).giveAnswer (.fullItem (s.busItem item))) ∨
          (s.full = false ∧ s.head < s.cap ∧ s.slots.read s.head = .empty ∧
            t = ((s.publishHead (s.busItem item)).ackW true).giveAnswer .ok)) := by
  unfold execSend
  rw [whileFifoLive_next]
  refine and_congr_right fun _ => ?_
  cases hf : s.full
  · rw [if_neg (by simp), withCell_next]
    cases hc : s.slots.read s.head <;> simp [@eq_comm _ t]
  · simp [@eq_comm _ t]

/-- A SEND faults only on a cell that is `Full`, or that does not exist (R126, log 9). -/
theorem execSend_fault {item : Nat} {f : Fault} (h : execSend item s = .fault f) :
    s.fifoPhase = .live ∧ s.full = false ∧ (¬s.head < s.cap ∨ s.slots.read s.head ≠ .empty) := by
  unfold execSend whileFifoLive at h
  cases hp : s.fifoPhase <;> rw [hp] at h <;> simp only [reduceCtorEq] at h
  split at h
  · cases h
  · unfold State.withCell at h
    split at h
    · cases hc : s.slots.read s.head <;> rw [hc] at h <;> simp_all
    · simp_all

/-- Everything a RECV that completes can do (42_fifo_receive.md R130). -/
theorem execRecv_next :
    execRecv s = .next t ↔
      s.fifoPhase = .live ∧
        ((s.empty = true ∧ t = (s.answerR none).giveAnswer .noneItem) ∨
          (s.empty = false ∧ s.tail < s.cap ∧ ∃ d, s.slots.read s.tail = .full d ∧
            t = (s.publishTail.answerR (some d)).giveAnswer (.someItem d))) := by
  unfold execRecv
  rw [whileFifoLive_next]
  refine and_congr_right fun _ => ?_
  cases hf : s.empty
  · rw [if_neg (by simp), withCell_next]
    cases hc : s.slots.read s.tail <;> simp [@eq_comm _ t]
  · simp [@eq_comm _ t]

/-- A RECV faults only on a cell that is `Empty`, or that does not exist (R133, log 9). -/
theorem execRecv_fault {f : Fault} (h : execRecv s = .fault f) :
    s.fifoPhase = .live ∧ s.empty = false ∧ (¬s.tail < s.cap ∨ s.slots.read s.tail = .empty) := by
  unfold execRecv whileFifoLive at h
  cases hp : s.fifoPhase <;> rw [hp] at h <;> simp only [reduceCtorEq] at h
  split at h
  · cases h
  · unfold State.withCell at h
    split at h
    · cases hc : s.slots.read s.tail <;> rw [hc] at h <;> simp_all
    · simp_all

/-! ## Every operation of the table -/

/-- Everything an operation of the table that completes can do, but SEND and RECV, which have lemmas of their own:
the state it leaves, and the conditions it completes under. -/
theorem exec_next {i : Instr} (h : exec i s = .next t) :
    match i with
    | .send item => execSend item s = .next t
    | .wIdle => t = s.ackW false
    | .recv => execRecv s = .next t
    | .rIdle => t = s.answerR none
    | .ctrNop p => p < s.params.ports ∧ t = s.setCtrOut p none
    | .get p => p < s.params.ports ∧ s.ctrPhase = .live ∧ t = counterNext s p s.ctr (some s.ctr)
    | .increment p =>
      p < s.params.ports ∧ s.ctrPhase = .live ∧ t = counterNext s p (s.busCount (s.ctr + 1)) none
    | .add p n =>
      p < s.params.ports ∧ s.ctrPhase = .live ∧ t = counterNext s p (s.busCount (s.ctr + s.busCount n)) none
    | .swap p v => p < s.params.ports ∧ s.ctrPhase = .live ∧ t = counterNext s p (s.busCount v) (some s.ctr)
    | .reset p => p < s.params.ports ∧ s.ctrPhase = .live ∧ t = counterNext s p 0 none
    | .fifoReset => t = s.resetFifo
    | .fifoRun => t = { s with fifoPhase := .live, wrRst := .out, rdRst := .out }
    | .ctrReset => t = s.resetCtr
    | .ctrRun => t = { s with ctrPhase := .live, ctrRst := .out }
    | .capacity => t = s.giveAnswer (.shown s.cap)
    | .lenW => t = s.giveAnswer (.shown s.wrLen)
    | .isEmptyW => t = s.giveAnswer (.shown (bit s.wrIsEmpty))
    | .full => t = s.giveAnswer (.shown (bit s.full))
    | .lenR => t = s.giveAnswer (.shown s.rdLen)
    | .isEmptyR => t = s.giveAnswer (.shown (bit s.rdIsEmpty))
    | .empty => t = s.giveAnswer (.shown (bit s.empty))
    | .syncH k => s.fifoPhase = .live ∧ (1 ≤ k ∧ k ≤ s.headLag) ∧
        t = { s with hsync := catchUp s.aw s.cap s.headSeen k s.hsync }
    | .syncT k => s.fifoPhase = .live ∧ (1 ≤ k ∧ k ≤ s.tailLag) ∧
        t = { s with tsync := catchUp s.aw s.cap s.tailSeen k s.tsync } := by
  cases i with
  | send item => exact h
  | recv => exact h
  | ctrNop p =>
    simp only [exec, execCtrNop] at h
    split at h
    · exact ⟨‹_›, (next_inj.1 h).symm⟩
    · cases h
  | get p => exact counterOp_next.1 h
  | increment p => exact counterOp_next.1 h
  | add p n => exact counterOp_next.1 h
  | swap p v => exact counterOp_next.1 h
  | reset p => exact counterOp_next.1 h
  | syncH k => obtain ⟨h1, h2, h3⟩ := syncStep_next.1 h; exact ⟨h1, h2, h3.symm⟩
  | syncT k => obtain ⟨h1, h2, h3⟩ := syncStep_next.1 h; exact ⟨h1, h2, h3.symm⟩
  | _ => exact (next_inj.1 h).symm

/-- Only SEND and RECV can fault (60_exceptions.md R203, R204). -/
theorem exec_fault {i : Instr} {f : Fault} (h : exec i s = .fault f) :
    (∃ item, i = .send item ∧ execSend item s = .fault f) ∨ (i = .recv ∧ execRecv s = .fault f) := by
  cases i with
  | send item => exact .inl ⟨item, rfl, h⟩
  | recv => exact .inr ⟨rfl, h⟩
  | ctrNop p => simp only [exec, execCtrNop] at h; split at h <;> cases h
  | get p => simp only [exec, execGet, counterOp] at h; repeat' split at h <;> try cases h
  | increment p => simp only [exec, execIncrement, counterOp] at h; repeat' split at h <;> try cases h
  | add p n => simp only [exec, execAdd, counterOp] at h; repeat' split at h <;> try cases h
  | swap p v => simp only [exec, execSwap, counterOp] at h; repeat' split at h <;> try cases h
  | reset p => simp only [exec, execReset, counterOp] at h; repeat' split at h <;> try cases h
  | syncH k =>
    simp only [exec, execSyncH, syncStep, whileFifoLive] at h; repeat' split at h <;> try cases h
  | syncT k =>
    simp only [exec, execSyncT, syncStep, whileFifoLive] at h; repeat' split at h <;> try cases h
  | _ => cases h

/-! ## Lines, edges, steps -/

/-- A line stands for an operation exactly when its port's own agent issues it and its word decodes. -/
theorem lineOperation_ok {l : Line} {i : Instr} :
    lineOperation l = .ok i ↔ l.agent = l.offer.port.driver ∧ decode l.offer = .ok i := by
  unfold lineOperation roleRefusal
  by_cases ha : l.agent = l.offer.port.driver
  · simp only [ha, if_true, true_and]
    cases hd : decode l.offer <;> simp
  · simp only [ha, if_false, false_and, iff_false]
    cases l.offer.port <;> simp

/-- A line its port's own agent issues runs what it decodes to. -/
theorem runLine_eq {l : Line} {i : Instr} (ha : l.agent = l.offer.port.driver) (hd : decode l.offer = .ok i)
    (s : State) : runLine l s = exec i s := by
  simp [runLine, lineOperation_ok.2 ⟨ha, hd⟩]

/-- A line that completes was issued by its port's own agent and ran what it decodes to. -/
theorem runLine_next {l : Line} :
    runLine l s = .next t ↔
      l.agent = l.offer.port.driver ∧ ∃ i, decode l.offer = .ok i ∧ exec i s = .next t := by
  unfold runLine
  cases h : lineOperation l with
  | ok i =>
    obtain ⟨ha, hd⟩ := lineOperation_ok.1 h
    simp [ha, hd]
  | error r =>
    simp only [reduceCtorEq, false_iff]
    rintro ⟨ha, i, hd, -⟩
    rw [lineOperation_ok.2 ⟨ha, hd⟩] at h
    cases h

/-- A line faults only as the operation it decodes to does. -/
theorem runLine_fault {l : Line} {f : Fault} (h : runLine l s = .fault f) :
    ∃ i, decode l.offer = .ok i ∧ exec i s = .fault f := by
  unfold runLine at h
  cases hl : lineOperation l with
  | error r => rw [hl] at h; cases h
  | ok i => rw [hl] at h; exact ⟨i, (lineOperation_ok.1 hl).2, h⟩

/-- A line that is ignored changes nothing; it is a command of its port's own agent, on a port that exists. -/
theorem ignoreLine_next {l : Line} :
    ignoreLine l s = .next t ↔
      l.agent = l.offer.port.driver ∧ (∃ i, decode l.offer = .ok i) ∧
        (∀ p, counterPort l = some p → p < s.params.ports) ∧ t = s := by
  unfold ignoreLine
  cases h : lineOperation l with
  | ok i =>
    obtain ⟨ha, hd⟩ := lineOperation_ok.1 h
    cases hc : counterPort l with
    | none => simp [ha, hd, @eq_comm _ t]
    | some p =>
      by_cases hp : p < s.params.ports
      · simp [ha, hd, hp, @eq_comm _ t]
      · simp [hp]
  | error r =>
    simp only [reduceCtorEq, false_iff]
    rintro ⟨ha, ⟨i, hd⟩, -⟩
    rw [lineOperation_ok.2 ⟨ha, hd⟩] at h
    cases h

/-- A line that is ignored never faults. -/
theorem ignoreLine_fault {l : Line} {f : Fault} : ignoreLine l s ≠ .fault f := by
  unfold ignoreLine
  repeat' split
  all_goals simp

/-- What every line keeps, several lines keep. -/
theorem eachLine_induct {f : Line → State → Host.Outcome State Fault Refusal} {P : State → Prop}
    (h : ∀ l s t, P s → f l s = .next t → P t) {ls : List Line} (hs : P s) (he : eachLine f ls s = .next t) : P t := by
  induction ls generalizing s with
  | nil => exact (next_inj.1 he) ▸ hs
  | cons l ls ih =>
    obtain ⟨u, h1, h2⟩ := andThen_next.1 he
    exact ih (h l s u hs h1) h2

/-- Several lines that complete each stood for an operation of their port's own agent. -/
theorem eachLine_next_line {f : Line → State → Host.Outcome State Fault Refusal} {ls : List Line}
    (he : eachLine f ls s = .next t) {l : Line} (hl : l ∈ ls) : ∃ u v, f l u = .next v := by
  induction ls generalizing s with
  | nil => cases hl
  | cons k ls ih =>
    obtain ⟨u, h1, h2⟩ := andThen_next.1 he
    rcases List.mem_cons.1 hl with rfl | hl
    exacts [⟨s, u, h1⟩, ih h2 hl]

/-- What a port's word can decode to. -/
theorem decode_w {o : Offer} {i : Instr} (hp : o.port = .w) (h : decode o = .ok i) :
    i = .wIdle ∨ i = .send o.bus := by
  simp only [decode, hp, decodeW] at h
  split at h <;> simp_all

theorem decode_r {o : Offer} {i : Instr} (hp : o.port = .r) (h : decode o = .ok i) : i = .rIdle ∨ i = .recv := by
  simp only [decode, hp, decodeR] at h
  split at h <;> simp_all

theorem decode_k {o : Offer} {i : Instr} {p : Nat} (hp : o.port = .k p) (h : decode o = .ok i) :
    i = .ctrNop p ∨ i = .get p ∨ i = .increment p ∨ i = .add p o.bus ∨ i = .swap p o.bus ∨ i = .reset p := by
  simp only [decode, hp, decodeK] at h
  split at h <;> simp_all

/-- Everything the command of a `wr_edge` that completes can do. -/
theorem wrCommand_next {l : Line} (h : wrCommand l s = .next t) :
    l.offer.port = .w ∧
      ((s.wrResetEdge.wrRst = .out ∧ l.agent = .p ∧
          ∃ i, decode l.offer = .ok i ∧ (i = .wIdle ∨ i = .send l.offer.bus) ∧ exec i s.wrResetEdge = .next t) ∨
        (s.wrResetEdge.wrRst ≠ .out ∧ l.agent = .p ∧ (∃ i, decode l.offer = .ok i) ∧
          t = s.wrResetEdge.ackW false)) := by
  unfold wrCommand at h
  split at h
  · refine ⟨‹_›, ?_⟩
    split at h
    · obtain ⟨ha, i, hd, he⟩ := runLine_next.1 h
      exact .inl ⟨‹_›, by rw [ha, ‹l.offer.port = .w›]; rfl, i, hd, decode_w ‹_› hd, he⟩
    · obtain ⟨ha, hd, -, ht⟩ := ignoreLine_next.1 h
      exact .inr ⟨‹_›, by rw [ha, ‹l.offer.port = .w›]; rfl, hd, ht⟩
  · cases h

/-- Everything the command of a `rd_edge` that completes can do. -/
theorem rdCommand_next {l : Line} (h : rdCommand l s = .next t) :
    l.offer.port = .r ∧
      ((s.rdResetEdge.rdRst = .out ∧ l.agent = .c ∧
          ∃ i, decode l.offer = .ok i ∧ (i = .rIdle ∨ i = .recv) ∧ exec i s.rdResetEdge = .next t) ∨
        (s.rdResetEdge.rdRst ≠ .out ∧ l.agent = .c ∧ (∃ i, decode l.offer = .ok i) ∧
          t = s.rdResetEdge.answerR none)) := by
  unfold rdCommand at h
  split at h
  · refine ⟨‹_›, ?_⟩
    split at h
    · obtain ⟨ha, i, hd, he⟩ := runLine_next.1 h
      exact .inl ⟨‹_›, by rw [ha, ‹l.offer.port = .r›]; rfl, i, hd, decode_r ‹_› hd, he⟩
    · obtain ⟨ha, hd, -, ht⟩ := ignoreLine_next.1 h
      exact .inr ⟨‹_›, by rw [ha, ‹l.offer.port = .r›]; rfl, hd, ht⟩
  · cases h

/-- A domain out of reset stays as it is at an edge. -/
theorem wrResetEdge_out (h : s.wrRst = .out) : s.wrResetEdge = s := by
  unfold State.wrResetEdge
  rw [h]
  cases s; cases h; rfl

theorem rdResetEdge_out (h : s.rdRst = .out) : s.rdResetEdge = s := by
  unfold State.rdResetEdge
  rw [h]
  cases s; cases h; rfl

theorem ctrResetEdge_out (h : s.ctrRst = .out) : s.ctrResetEdge = s := by
  unfold State.ctrResetEdge
  rw [h]
  cases s; cases h; rfl

/-- Everything a counter edge that completes can do: out of reset its commands run one after another, in reset they
change nothing. -/
theorem ctrEdge_next {ls : List Line} (h : ctrEdge ls s = .next t) :
    (ls.filterMap counterPort).Nodup ∧
      ((s.ctrEdgeStart.ctrRst = .out ∧ eachLine runLine ls s.ctrEdgeStart = .next t) ∨
        (s.ctrEdgeStart.ctrRst ≠ .out ∧ eachLine ignoreLine ls s.ctrEdgeStart = .next t ∧ t = s.ctrEdgeStart)) := by
  unfold ctrEdge at h
  split at h
  · split at h
    · refine ⟨‹_›, ?_⟩
      split at h
      · exact .inl ⟨‹_›, h⟩
      · exact .inr ⟨‹_›, h, eachLine_induct (P := fun u => u = s.ctrEdgeStart)
          (fun l a b ha hb => (ignoreLine_next.1 hb).2.2.2.trans ha) rfl h⟩
    · cases h
  · cases h

/-- Everything a step that completes can do: nothing was offered, or it ran the next entry of the schedule. -/
theorem step_next (h : step s = .next t) :
    s.faulted = [] ∧
      ((s.input = [] ∧ t = s.consume []) ∨
        ∃ x rest, s.input = x :: rest ∧ runInput x (s.consume rest) = .next t) := by
  unfold step at h
  split at h
  · cases h
  · split at h
    · exact ⟨‹_›, .inl ⟨‹_›, (next_inj.1 h).symm⟩⟩
    · exact ⟨‹_›, .inr ⟨_, _, ‹_›, h⟩⟩

/-- Everything a step that faults can have done. -/
theorem step_fault {f : Fault} (h : step s = .fault f) :
    f ∈ s.faulted ∨ ∃ x rest, s.input = x :: rest ∧ runInput x (s.consume rest) = .fault f := by
  unfold step at h
  split at h
  · rename_i g fs hf; cases h; exact .inl (hf ▸ List.mem_cons_self)
  · split at h
    · cases h
    · exact .inr ⟨_, _, ‹_›, h⟩

end Sys2Proof.Machine
end

