-- ==== Sys2Proof/Laws/Memory.lean ====
section
/-! SUPPORT. The slot array: read after write, and every operation keeps the canonical form. -/

namespace Sys2Proof.Machine

namespace Memory

variable {m : Memory} {i j : Nat} {d : Nat}

@[simp] theorem read_nil (i : Nat) : Memory.read [] i = .empty := rfl

theorem read_cons (a e : Nat) (m : Memory) (i : Nat) :
    Memory.read ((a, e) :: m) i = if a = i then .full e else Memory.read m i := rfl

/-- An index below every entry reads `Empty`. -/
theorem read_of_lt (h : ∀ e ∈ m, i < e.1) : Memory.read m i = .empty := by
  induction m with
  | nil => rfl
  | cons x m ih =>
    obtain ⟨a, e⟩ := x
    have ha : i < a := h (a, e) List.mem_cons_self
    rw [read_cons, if_neg (by omega), ih fun e he => h e (List.mem_cons_of_mem _ he)]

theorem read_insert (h : m.wf) (i d j : Nat) :
    Memory.read (Memory.insert m i d) j = if j = i then .full d else Memory.read m j := by
  induction m with
  | nil => simp [Memory.insert, read_cons, eq_comm]
  | cons x m ih =>
    obtain ⟨a, e⟩ := x
    have hm := ih (List.pairwise_cons.1 h).2
    unfold Memory.insert
    split
    · simp only [read_cons]; grind
    · split
      · simp only [read_cons]; grind
      · simp only [read_cons, hm]; grind

theorem read_erase (m : Memory) (i j : Nat) :
    Memory.read (Memory.erase m i) j = if j = i then .empty else Memory.read m j := by
  induction m with
  | nil => simp [Memory.erase]
  | cons x m ih =>
    obtain ⟨a, e⟩ := x
    have h : Memory.erase ((a, e) :: m) i = if a = i then Memory.erase m i else (a, e) :: Memory.erase m i := by
      unfold Memory.erase; rw [List.filter_cons]; by_cases h : a = i <;> simp [h]
    rw [h]
    split
    · rw [ih, read_cons]; grind
    · simp only [read_cons, ih]; grind

/-- Read after write: the cell written holds what was written, every other one what it held. -/
theorem read_write (h : m.wf) (i : Nat) (c : Cell) (j : Nat) :
    Memory.read (Memory.write m i c) j = if j = i then c else Memory.read m j := by
  cases c with
  | empty => exact read_erase m i j
  | full d => exact read_insert h i d j

theorem mem_insert {e : Nat × Nat} (h : e ∈ Memory.insert m i d) : e = (i, d) ∨ e ∈ m := by
  induction m with
  | nil => simpa [Memory.insert] using h
  | cons x m ih =>
    obtain ⟨a, b⟩ := x
    unfold Memory.insert at h
    split at h
    · simpa using h
    · split at h
      · simp at h; grind
      · simp at h; grind

theorem wf_insert (h : m.wf) (i d : Nat) : (Memory.insert m i d).wf := by
  induction m with
  | nil => simp [Memory.insert]
  | cons x m ih =>
    obtain ⟨a, e⟩ := x
    obtain ⟨h1, h2⟩ := List.pairwise_cons.1 h
    unfold Memory.insert
    split
    · exact List.pairwise_cons.2 ⟨fun y hy => by
        rcases List.mem_cons.1 hy with rfl | hy
        · assumption
        · have := h1 y hy; simp at this; simp; omega, h⟩
    · split
      · subst i; exact List.pairwise_cons.2 ⟨h1, h2⟩
      · refine List.pairwise_cons.2 ⟨fun y hy => ?_, ih h2⟩
        rcases mem_insert hy with rfl | hy
        · simp; omega
        · exact h1 y hy

/-- Every operation on the slot array keeps the canonical form. -/
theorem wf_write (h : m.wf) (i : Nat) (c : Cell) : (Memory.write m i c).wf := by
  cases c with
  | empty => exact h.filter _
  | full d => exact wf_insert h i d

/-- What a write can put into the array. -/
theorem mem_write {e : Nat × Nat} {c : Cell} (h : e ∈ Memory.write m i c) :
    e ∈ m ∨ ∃ d, c = .full d ∧ e = (i, d) := by
  cases c with
  | empty => exact .inl (List.mem_of_mem_filter h)
  | full d => rcases mem_insert h with rfl | h; exacts [.inr ⟨d, rfl, rfl⟩, .inl h]

/-- A `Full` cell is an entry. -/
theorem mem_of_read (h : Memory.read m i = .full d) : (i, d) ∈ m := by
  induction m with
  | nil => simp at h
  | cons x m ih =>
    obtain ⟨a, e⟩ := x
    rw [read_cons] at h
    split at h
    · cases h; subst i; exact List.mem_cons_self
    · exact List.mem_cons_of_mem _ (ih h)

end Memory

end Sys2Proof.Machine
end

