-- ==== Sys2Proof/Laws/Invariant.lean ====
section
/-! SUPPORT. What the invariant says about the flags, and that each update of the state an operation is made of keeps
it. -/

namespace Sys2Proof.Machine

variable {s : State}

namespace Inv

theorem hsync_ne (h : Inv s) : s.hsync ≠ [] := by
  have := h.hsync_length; have := h.params_wf.2.2.2.1
  intro he; simp [he] at *; omega

theorem tsync_ne (h : Inv s) : s.tsync ≠ [] := by
  have := h.tsync_length; have := h.params_wf.2.2.2.1
  intro he; simp [he] at *; omega

theorem headSeen_lt (h : Inv s) : s.headSeen < s.cap :=
  gray2bin_lt (getLastD_lt s.cap_pos h.hsync_lt) _

theorem tailSeen_lt (h : Inv s) : s.tailSeen < s.cap :=
  gray2bin_lt (getLastD_lt s.cap_pos h.tsync_lt) _

theorem hstage_lt (h : Inv s) {g : Nat} (hg : g ∈ s.hsync) : gray2bin s.aw g < s.cap :=
  gray2bin_lt (h.hsync_lt g hg) _

theorem tstage_lt (h : Inv s) {g : Nat} (hg : g ∈ s.tsync) : gray2bin s.aw g < s.cap :=
  gray2bin_lt (h.tsync_lt g hg) _

/-- The Gray copy decodes to the index (10_state.md R23). -/
theorem headG_dec (h : Inv s) : gray2bin s.aw s.headG = s.head := by
  rw [h.headG_eq]; exact gray2bin_bin2gray h.head_lt

/-- The Gray copy decodes to the index (10_state.md R24). -/
theorem tailG_dec (h : Inv s) : gray2bin s.aw s.tailG = s.tail := by
  rw [h.tailG_eq]; exact gray2bin_bin2gray h.tail_lt

theorem headG_lt (h : Inv s) : s.headG < s.cap := by rw [h.headG_eq]; exact bin2gray_lt h.head_lt

theorem tailG_lt (h : Inv s) : s.tailG < s.cap := by rw [h.tailG_eq]; exact bin2gray_lt h.tail_lt

/-- The true occupancy and the write side's view, in the terms of 10_state.md R38. -/
theorem totals (h : Inv s) :
    s.occupancy = s.rdLen + s.headLag ∧ s.wrLen = s.tailLag + s.rdLen + s.headLag :=
  ring_total h.tailSeen_lt h.tail_lt h.headSeen_lt h.head_lt h.ring

theorem ring' (h : Inv s) : s.tailLag + s.rdLen + s.headLag ≤ s.cap - 1 := h.ring

theorem full_iff (h : Inv s) : s.full = true ↔ s.wrLen = s.cap - 1 := by
  rw [State.full, beq_iff_eq]; exact inc_eq_iff h.head_lt h.tailSeen_lt

theorem empty_iff (h : Inv s) : s.empty = true ↔ s.rdLen = 0 := by
  rw [State.empty, beq_iff_eq, eq_comm]; exact (dist_eq_zero_iff h.tail_lt h.headSeen_lt).symm

/-- With room for one more, the write side's view is below `CAP - 1`. -/
theorem room (h : Inv s) (hf : s.full = false) : s.tailLag + s.rdLen + s.headLag + 2 ≤ s.cap := by
  have h1 := h.ring'
  have h2 := (h.full_iff).not.1 (by simp [hf])
  have h3 := h.totals.2
  have := s.cap_pos
  omega

/-- With an item to see, the read side's view is at least 1. -/
theorem visible (h : Inv s) (he : s.empty = false) : 1 ≤ s.rdLen := by
  have := (h.empty_iff).not.1 (by simp [he]); omega

/-- Cell `head` is `Empty` when the FIFO is not full (44_fifo_status.md R168). -/
theorem head_cell (h : Inv s) : s.slots.read s.head = .empty := by
  by_contra hc
  exact lt_irrefl _ ((h.occupied s.head h.head_lt).1 hc)

/-- Cell `tail` is `Full` when the FIFO is not empty (44_fifo_status.md R168). -/
theorem tail_cell (h : Inv s) (he : s.empty = false) : ∃ d, s.slots.read s.tail = .full d := by
  have h1 := (h.occupied s.tail h.tail_lt).2 (by
    have := h.visible he; have := h.totals.1; rw [dist_self h.tail_lt]; simp only [State.occupancy] at *; omega)
  cases hc : s.slots.read s.tail with
  | empty => exact absurd hc h1
  | full d => exact ⟨d, rfl⟩

/-- What a full cell holds has DW bits. -/
theorem cell_fits (h : Inv s) {i d : Nat} (hc : s.slots.read i = .full d) : fits s.params.dw d :=
  (h.slots_fit _ (Memory.mem_of_read hc)).2

/-! ## Updates that keep the invariant -/

theorem giveAnswer (h : Inv s) (a : Answer) : Inv (s.giveAnswer a) := { h with }

theorem consume (h : Inv s) (r : List Input) : Inv (s.consume r) := { h with }

theorem ackW (h : Inv s) (b : Bool) (hb : s.fifoPhase = .live ∨ b = false) : Inv (s.ackW b) :=
  { h with
    fifo_reset := fun hp => by
      obtain ⟨a1, a2, a3, a4, a5, a6, a7, -, a9⟩ := h.fifo_reset hp
      exact ⟨a1, a2, a3, a4, a5, a6, a7, by rcases hb with hb | hb <;> simp_all, a9⟩ }

theorem answerR (h : Inv s) (v : Option Nat) (hv : s.fifoPhase = .live ∨ v = none)
    (hd : ∀ d, v = some d → fits s.params.dw d) : Inv (s.answerR v) :=
  { h with
    rdOut_fits := hd
    fifo_reset := fun hp => by
      obtain ⟨a1, a2, a3, a4, a5, a6, a7, a8, -⟩ := h.fifo_reset hp
      exact ⟨a1, a2, a3, a4, a5, a6, a7, a8, by rcases hv with hv | hv <;> simp_all⟩ }

theorem setCtrOut (h : Inv s) (i : Nat) (v : Option Nat) : Inv (s.setCtrOut i v) :=
  { h with ctrOut_length := by simpa using h.ctrOut_length }

theorem setCtr (h : Inv s) (hp : s.ctrPhase = .live) {c : Nat} (hc : fits s.params.cw c) :
    Inv { s with ctr := c } :=
  { h with ctr_fits := hc, ctr_reset := fun hr => by simp_all }

/-- SEND steps 5 and 6 keep it while the FIFO is live and not full (the proof in 10_state.md R38, R39). -/
theorem publishHead (h : Inv s) (hl : s.fifoPhase = .live) (hf : s.full = false) {d : Nat}
    (hd : fits s.params.dw d) : Inv (s.publishHead d) := by
  have hr := h.room hf
  have ht := h.totals
  have hpos := s.cap_pos
  simp only [State.occupancy, State.rdLen, State.headLag, State.wrLen, State.tailLag] at hr ht
  have h1 := dist_inc_right h.headSeen_lt h.head_lt (by omega)
  have h2 := dist_inc_right h.tail_lt h.head_lt (by omega)
  refine { h with
    slots_wf := Memory.wf_write h.slots_wf s.head (.full d)
    slots_fit := fun e he => ?_
    head_lt := inc_lt hpos _
    headG_eq := rfl
    hsync_ordered := h.hsync_ordered.source_inc h.head_lt (fun g hg => h.hstage_lt hg) ?_
    ring := ?_
    occupied := fun i hi => ?_
    fifo_reset := fun hp => ?_ }
  · rcases Memory.mem_write (m := s.slots) (i := s.head) (c := .full d) he with he | ⟨x, hx, rfl⟩
    · exact h.slots_fit e he
    · cases hx; exact ⟨h.head_lt, hd⟩
  · exact (by omega : dist s.cap s.headSeen s.head + 1 < s.cap)
  · change dist s.cap s.tailSeen s.tail + dist s.cap s.tail s.headSeen +
      dist s.cap s.headSeen (inc s.cap s.head) ≤ s.cap - 1
    omega
  · change Memory.read (Memory.write s.slots s.head (.full d)) i ≠ .empty ↔
      dist s.cap s.tail i < dist s.cap s.tail (inc s.cap s.head)
    rw [Memory.read_write h.slots_wf, h2]
    split
    · subst i; simp
    · rw [h.occupied i hi]
      have : dist s.cap s.tail i ≠ dist s.cap s.tail s.head := fun he =>
        ‹¬i = s.head› (dist_left_inj hi h.head_lt h.tail_lt he)
      omega
  · simp_all

/-- RECV step 4 keeps it while the FIFO is live and not empty (the proof in 10_state.md R38, R39). -/
theorem publishTail (h : Inv s) (hl : s.fifoPhase = .live) (he : s.empty = false) : Inv s.publishTail := by
  have hr := h.visible he
  have ht := h.totals
  have hri := h.ring'
  have hpos := s.cap_pos
  simp only [State.occupancy, State.rdLen, State.headLag, State.wrLen, State.tailLag] at hr ht hri
  have h1 := dist_inc_right h.tailSeen_lt h.tail_lt (by omega)
  have h2 := dist_inc_left h.tail_lt h.headSeen_lt hr
  have h3 := dist_inc_left h.tail_lt h.head_lt (by omega)
  refine { h with
    slots_wf := Memory.wf_write h.slots_wf s.tail .empty
    slots_fit := fun e he => ?_
    tail_lt := inc_lt hpos _
    tailG_eq := rfl
    tsync_ordered := h.tsync_ordered.source_inc h.tail_lt (fun g hg => h.tstage_lt hg) ?_
    ring := ?_
    occupied := fun i hi => ?_
    fifo_reset := fun hp => ?_ }
  · rcases Memory.mem_write (m := s.slots) (i := s.tail) (c := .empty) he with he | ⟨x, hx, rfl⟩
    · exact h.slots_fit e he
    · cases hx
  · exact (by omega : dist s.cap s.tailSeen s.tail + 1 < s.cap)
  · change dist s.cap s.tailSeen (inc s.cap s.tail) + dist s.cap (inc s.cap s.tail) s.headSeen +
      dist s.cap s.headSeen s.head ≤ s.cap - 1
    omega
  · change Memory.read (Memory.write s.slots s.tail .empty) i ≠ .empty ↔
      dist s.cap (inc s.cap s.tail) i < dist s.cap (inc s.cap s.tail) s.head
    rw [Memory.read_write h.slots_wf]
    split
    · subst i
      have := (inc_eq_iff h.tail_lt (inc_lt hpos s.tail)).1 rfl
      simp; omega
    · rw [h.occupied i hi]
      have h4 : dist s.cap s.tail i ≠ 0 := fun hz => ‹¬i = s.tail› ((dist_eq_zero_iff h.tail_lt hi).1 hz).symm
      have h5 := dist_inc_left h.tail_lt hi (by omega)
      omega
  · simp_all

/-- Bringing the last stage of `hsync` forward by at most the lag keeps it (43_fifo_sync.md R140, R150). -/
theorem catchUpHead (h : Inv s) (hl : s.fifoPhase = .live) {k : Nat} (hk : 1 ≤ k) (hle : k ≤ s.headLag) :
    Inv { s with hsync := catchUp s.aw s.cap s.headSeen k s.hsync } := by
  have hlast : gray2bin s.aw ((catchUp s.aw s.cap s.headSeen k s.hsync).getLastD 0) = forward s.cap s.headSeen k :=
    catchUp_last s.cap_eq h.hsync_ne hk (getLastD_lt s.cap_pos h.hsync_lt)
  have hlag := dist_lt s.cap_pos s.headSeen s.head
  simp only [State.headLag] at hle
  have hd := dist_forward h.headSeen_lt (k := k) (by omega)
  have hf := forward_lt s.cap_pos s.headSeen k
  have hsp := dist_split h.headSeen_lt hf h.head_lt (by omega)
  refine { h with
    hsync_length := by rw [catchUp_length]; exact h.hsync_length
    hsync_lt := fun g hg => catchUp_stage_lt s.cap_eq h.hsync_lt hg
    hsync_ordered := h.hsync_ordered.catchUp s.cap_eq h.head_lt h.hsync_lt hle
    ring := ?_
    fifo_reset := fun hp => by simp_all }
  have := ring_move_head h.tail_lt h.headSeen_lt h.head_lt hf h.ring (by omega)
  rw [← hlast] at this
  exact this

/-- The same for `tsync` (43_fifo_sync.md R141, R150). -/
theorem catchUpTail (h : Inv s) (hl : s.fifoPhase = .live) {k : Nat} (hk : 1 ≤ k) (hle : k ≤ s.tailLag) :
    Inv { s with tsync := catchUp s.aw s.cap s.tailSeen k s.tsync } := by
  have hlast : gray2bin s.aw ((catchUp s.aw s.cap s.tailSeen k s.tsync).getLastD 0) = forward s.cap s.tailSeen k :=
    catchUp_last s.cap_eq h.tsync_ne hk (getLastD_lt s.cap_pos h.tsync_lt)
  have hlag := dist_lt s.cap_pos s.tailSeen s.tail
  simp only [State.tailLag] at hle
  have hd := dist_forward h.tailSeen_lt (k := k) (by omega)
  have hf := forward_lt s.cap_pos s.tailSeen k
  have hsp := dist_split h.tailSeen_lt hf h.tail_lt (by omega)
  refine { h with
    tsync_length := by rw [catchUp_length]; exact h.tsync_length
    tsync_lt := fun g hg => catchUp_stage_lt s.cap_eq h.tsync_lt hg
    tsync_ordered := h.tsync_ordered.catchUp s.cap_eq h.tail_lt h.tsync_lt hle
    ring := ?_
    fifo_reset := fun hp => by simp_all }
  have hr := h.ring
  change dist s.cap (gray2bin s.aw ((catchUp s.aw s.cap s.tailSeen k s.tsync).getLastD 0)) s.tail +
    dist s.cap s.tail s.headSeen + dist s.cap s.headSeen s.head ≤ s.cap - 1
  rw [hlast]
  omega

/-- Shifting a code into `hsync` that is no further behind `head` than any stage keeps it (43_fifo_sync.md R146). -/
theorem shiftHsync (h : Inv s) (hl : s.fifoPhase = .live) {v : Nat} (hv : v < s.cap)
    (hle : ∀ g ∈ s.hsync, dist s.cap (gray2bin s.aw v) s.head ≤ dist s.cap (gray2bin s.aw g) s.head) :
    Inv { s with hsync := shiftIn v s.hsync } := by
  have hlt : ∀ g ∈ shiftIn v s.hsync, g < s.cap := fun g hg => by
    rcases mem_shiftIn hg with rfl | hg; exacts [hv, h.hsync_lt g hg]
  refine { h with
    hsync_length := by rw [shiftIn_length]; exact h.hsync_length
    hsync_lt := hlt
    hsync_ordered := h.hsync_ordered.shiftIn hle
    ring := ?_
    fifo_reset := fun hp => by simp_all }
  exact ring_move_head h.tail_lt h.headSeen_lt h.head_lt
    (gray2bin_lt (getLastD_lt s.cap_pos hlt) _) h.ring (shiftIn_last_le h.hsync_ordered hle h.hsync_ne)

/-- The same for `tsync` and `tail` (43_fifo_sync.md R147). -/
theorem shiftTsync (h : Inv s) (hl : s.fifoPhase = .live) {v : Nat} (hv : v < s.cap)
    (hle : ∀ g ∈ s.tsync, dist s.cap (gray2bin s.aw v) s.tail ≤ dist s.cap (gray2bin s.aw g) s.tail) :
    Inv { s with tsync := shiftIn v s.tsync } := by
  have hlt : ∀ g ∈ shiftIn v s.tsync, g < s.cap := fun g hg => by
    rcases mem_shiftIn hg with rfl | hg; exacts [hv, h.tsync_lt g hg]
  refine { h with
    tsync_length := by rw [shiftIn_length]; exact h.tsync_length
    tsync_lt := hlt
    tsync_ordered := h.tsync_ordered.shiftIn hle
    ring := ?_
    fifo_reset := fun hp => by simp_all }
  have hr : dist s.cap (gray2bin s.aw (s.tsync.getLastD 0)) s.tail + dist s.cap s.tail s.headSeen +
    dist s.cap s.headSeen s.head ≤ s.cap - 1 := h.ring
  have := shiftIn_last_le h.tsync_ordered hle h.tsync_ne
  change dist s.cap (gray2bin s.aw ((shiftIn v s.tsync).getLastD 0)) s.tail +
    dist s.cap s.tail s.headSeen + dist s.cap s.headSeen s.head ≤ s.cap - 1
  omega

theorem resetCtr (h : Inv s) : Inv s.resetCtr :=
  have hi : s.busCount s.params.init = s.params.init := Nat.mod_eq_of_lt h.params_wf.2.2.1
  { h with
    ctr_fits := by rw [State.resetCtr_ctr, hi]; exact h.params_wf.2.2.1
    ctr_reset := fun _ => hi
    ctr_live := fun hc => by cases hc
    ctrOut_length := List.length_replicate }

end Inv

end Sys2Proof.Machine
end

