-- ==== Sys2Proof/Laws/PerInstr.lean ====
section
/-! SUPPORT. Statements made of every operation of the table as syntax, one lemma per constructor. -/

namespace Sys2Proof.Laws.OperandFits

/-- What a well-formed operation puts on the operand bus fits the bus of its port (30_encoding.md R81, R86, R91): an
item of DW bits on port W, CW bits on a counter port that exists, a draw of at least one step for a synchronizer, and
nothing anywhere else. -/
def Statement (i : Instr) : Prop :=
  ∀ p : Params, i.wellFormed p = true →
    match (encode i).port with
    | .w => fits p.dw (encode i).bus
    | .k q => q < p.ports ∧ fits p.cw (encode i).bus
    | .xh => 1 ≤ (encode i).bus
    | .xt => 1 ≤ (encode i).bus
    | .r => (encode i).bus = 0
    | .hf => (encode i).bus = 0
    | .hk => (encode i).bus = 0
    | .sw _ => (encode i).bus = 0
    | .sr _ => (encode i).bus = 0

theorem send (item : Nat) : Statement (.send item) := fun p h => by
  simpa [Instr.wellFormed, encode] using h

theorem wIdle : Statement .wIdle := fun p _ => Nat.two_pow_pos p.dw

theorem recv : Statement .recv := fun _ _ => rfl

theorem rIdle : Statement .rIdle := fun _ _ => rfl

theorem ctrNop (port : Nat) : Statement (.ctrNop port) := fun p h => ⟨of_decide_eq_true h, Nat.two_pow_pos p.cw⟩

theorem get (port : Nat) : Statement (.get port) := fun p h => ⟨of_decide_eq_true h, Nat.two_pow_pos p.cw⟩

theorem increment (port : Nat) : Statement (.increment port) := fun p h => ⟨of_decide_eq_true h, Nat.two_pow_pos p.cw⟩

theorem add (port n : Nat) : Statement (.add port n) := fun p h => by
  simpa [Instr.wellFormed, encode] using h

theorem swap (port v : Nat) : Statement (.swap port v) := fun p h => by
  simpa [Instr.wellFormed, encode] using h

theorem reset (port : Nat) : Statement (.reset port) := fun p h => ⟨of_decide_eq_true h, Nat.two_pow_pos p.cw⟩

theorem fifoReset : Statement .fifoReset := fun _ _ => rfl

theorem fifoRun : Statement .fifoRun := fun _ _ => rfl

theorem ctrReset : Statement .ctrReset := fun _ _ => rfl

theorem ctrRun : Statement .ctrRun := fun _ _ => rfl

theorem capacity : Statement .capacity := fun _ _ => rfl

theorem lenW : Statement .lenW := fun _ _ => rfl

theorem isEmptyW : Statement .isEmptyW := fun _ _ => rfl

theorem full : Statement .full := fun _ _ => rfl

theorem lenR : Statement .lenR := fun _ _ => rfl

theorem isEmptyR : Statement .isEmptyR := fun _ _ => rfl

theorem empty : Statement .empty := fun _ _ => rfl

theorem syncH (k : Nat) : Statement (.syncH k) := fun p h => by
  simpa [Instr.wellFormed, encode] using h

theorem syncT (k : Nat) : Statement (.syncT k) := fun p h => by
  simpa [Instr.wellFormed, encode] using h

end Sys2Proof.Laws.OperandFits
end

