-- ==== Sys2Proof/Tests/Slice0.lean ====
section
/-! SUPPORT. The model's own tests. Expected results are the vectors of 95_test_vectors.md (V-..., S...) or the
encoding rules R82, R84, R87, R89; after them, for every obligation with hypotheses, a witness that meets them. -/

namespace Sys2Proof.Tests

open Sys2Proof.Machine

/-! ## Helpers -/

/-- An instance of capacity `next_pow2(req)`, DW 8, CW 8, INIT 7, two stages, two counter ports. -/
def inst (req : Nat) : Params := { req := req, dw := 8, cw := 8, init := 7, stages := 2, ports := 2 }

/-- A live state in the notation of 95_test_vectors.md: `head tail head_seen tail_seen | slots`. -/
def at4 (req head tail headSeen tailSeen : Nat) (slots : Memory) : State :=
  { (State.resetOf (inst req)).outOfReset with
    slots := slots, head := head, tail := tail, headG := bin2gray head, tailG := bin2gray tail
    hsync := [bin2gray headSeen, bin2gray headSeen], tsync := [bin2gray tailSeen, bin2gray tailSeen] }

/-- A live state whose counter holds `c`. -/
def atCtr (c : Nat) : State := { at4 4 0 0 0 0 [] with ctr := c }

/-- The four indices and the cells. -/
def view (s : State) : Nat × Nat × Nat × Nat × Memory := (s.head, s.tail, s.headSeen, s.tailSeen, s.slots)

/-- The outcome is a next state of which `f` holds. -/
def nextWith (o : Host.Outcome State Fault Refusal) (f : State → Bool) : Bool :=
  match o with
  | .next t => f t
  | .fault _ => false
  | .refused _ => false

/-- The outcome is the fault `f`. -/
def faultsWith (o : Host.Outcome State Fault Refusal) (f : Fault) : Bool :=
  match o with
  | .next _ => false
  | .fault g => g == f
  | .refused _ => false

/-- The outcome is the refusal `r`. -/
def refusesWith (o : Host.Outcome State Fault Refusal) (r : Refusal) : Bool :=
  match o with
  | .next _ => false
  | .fault _ => false
  | .refused q => q == r

/-! ## Well-formedness: an ill-formed term for each check -/

theorem test_wf_refuses_wide_item : Instr.wellFormed (inst 4) (.send 0x100) = false := by decide
theorem test_wf_refuses_port_of_nop : Instr.wellFormed (inst 4) (.ctrNop 2) = false := by decide
theorem test_wf_refuses_port_of_get : Instr.wellFormed (inst 4) (.get 2) = false := by decide
theorem test_wf_refuses_port_of_increment : Instr.wellFormed (inst 4) (.increment 2) = false := by decide
theorem test_wf_refuses_port_of_add : Instr.wellFormed (inst 4) (.add 2 0) = false := by decide
theorem test_wf_refuses_wide_addend : Instr.wellFormed (inst 4) (.add 1 0x100) = false := by decide
theorem test_wf_refuses_port_of_swap : Instr.wellFormed (inst 4) (.swap 2 0) = false := by decide
theorem test_wf_refuses_wide_value : Instr.wellFormed (inst 4) (.swap 1 0x100) = false := by decide
theorem test_wf_refuses_port_of_reset : Instr.wellFormed (inst 4) (.reset 2) = false := by decide
theorem test_wf_refuses_no_step_head : Instr.wellFormed (inst 4) (.syncH 0) = false := by decide
theorem test_wf_refuses_no_step_tail : Instr.wellFormed (inst 4) (.syncT 0) = false := by decide
theorem test_wf_accepts : ([.send 0xff, .add 1 0xff, .swap 1 0xff, .syncH 1, .fifoReset] : List Instr).all
    (Instr.wellFormed (inst 4)) = true := by decide

/-! ## Decoding: words written out from 30_encoding.md -/

/-- Format W: `wr_en`, bit 0 (R82). -/
theorem test_decode_w : decode ⟨.w, 0b1, 0x11⟩ = .ok (.send 0x11) ∧ decode ⟨.w, 0b0, 0x11⟩ = .ok .wIdle := ⟨rfl, rfl⟩
/-- Format R: `rd_en`, bit 0 (R84). -/
theorem test_decode_r : decode ⟨.r, 0b1, 0⟩ = .ok .recv ∧ decode ⟨.r, 0b0, 0⟩ = .ok .rIdle := ⟨rfl, rfl⟩
/-- Format K: `ctr_op[2:0]` (R87); the bus only matters to ADD and SWAP (R91). -/
theorem test_decode_k : decode ⟨.k 1, 0b000, 9⟩ = .ok (.ctrNop 1) ∧ decode ⟨.k 1, 0b001, 9⟩ = .ok (.get 1) ∧
    decode ⟨.k 1, 0b010, 9⟩ = .ok (.increment 1) ∧ decode ⟨.k 0, 0b011, 0x0a⟩ = .ok (.add 0 0x0a) ∧
    decode ⟨.k 1, 0b100, 0x10⟩ = .ok (.swap 1 0x10) ∧ decode ⟨.k 0, 0b101, 9⟩ = .ok (.reset 0) :=
  ⟨rfl, rfl, rfl, rfl, rfl, rfl⟩
/-- Formats HF `{wr_rst_n, rd_rst_n}` and HK `ctr_rst_n` (R89). -/
theorem test_decode_h : decode ⟨.hf, 0b00, 0⟩ = .ok .fifoReset ∧ decode ⟨.hf, 0b11, 0⟩ = .ok .fifoRun ∧
    decode ⟨.hk, 0b0, 0⟩ = .ok .ctrReset ∧ decode ⟨.hk, 0b1, 0⟩ = .ok .ctrRun := ⟨rfl, rfl, rfl, rfl⟩
/-- Formats SW, SR and X have no command bits (R90); `capacity` is on both ports (R160). -/
theorem test_decode_no_bits : decode ⟨.sw .capacity, 0, 0⟩ = .ok .capacity ∧ decode ⟨.sr .capacity, 0, 0⟩ = .ok .capacity ∧
    decode ⟨.sw .wrLen, 0, 0⟩ = .ok .lenW ∧ decode ⟨.sw .wrIsEmpty, 0, 0⟩ = .ok .isEmptyW ∧
    decode ⟨.sw .wrFull, 0, 0⟩ = .ok .full ∧ decode ⟨.sr .rdLen, 0, 0⟩ = .ok .lenR ∧
    decode ⟨.sr .rdIsEmpty, 0, 0⟩ = .ok .isEmptyR ∧ decode ⟨.sr .rdEmpty, 0, 0⟩ = .ok .empty ∧
    decode ⟨.xh, 0, 3⟩ = .ok (.syncH 3) ∧ decode ⟨.xt, 0, 2⟩ = .ok (.syncT 2) :=
  ⟨rfl, rfl, rfl, rfl, rfl, rfl, rfl, rfl, rfl, rfl⟩
/-- Reserved codes (R97), and words of too many bits (R80). -/
theorem test_decode_reserved : decode ⟨.k 0, 0b110, 0⟩ = .error .reservedCounterOp ∧
    decode ⟨.k 0, 0b111, 0⟩ = .error .reservedCounterOp ∧ decode ⟨.hf, 0b01, 0⟩ = .error .partialReset ∧
    decode ⟨.hf, 0b10, 0⟩ = .error .partialReset ∧ decode ⟨.w, 0b10, 0⟩ = .error .notOfFormat ∧
    decode ⟨.k 0, 0b1000, 0⟩ = .error .notOfFormat := ⟨rfl, rfl, rfl, rfl, rfl, rfl⟩
/-- Bare words of the table, offered as log 3 says: rows SEND, INCREMENT, ADD, SWAP, RESET, CAPACITY. -/
theorem test_decode_table_word : decodeTableWord 8 1 = some (.send 0) ∧ decodeTableWord 8 2 = some (.increment 0) ∧
    decodeTableWord 8 3 = some (.add 0 0) ∧ decodeTableWord 8 4 = some (.swap 0 0) ∧
    decodeTableWord 8 5 = some (.reset 0) ∧ decodeTableWord 0 0 = some .capacity := by decide
/-- The first step after reset with SEND placed runs it: OK, one item stored (V-RST). -/
theorem test_fetch_word_send : nextWith (step (State.reset.withFetchWord 8 1)) (fun t =>
    t.answers == [.ok] && view t == (1, 0, 0, 0, [(0, 0)])) = true := by decide
/-- The first step after reset with SWAP placed runs it: VALUE(0), `INIT` being 0. -/
theorem test_fetch_word_swap : nextWith (step (State.reset.withFetchWord 8 4)) (fun t =>
    t.answers == [.value 0 0]) = true := by decide

/-! ## Port W (V-SEND) -/

theorem test_send_full_is_pessimistic : nextWith (exec (.send 0x44) (at4 4 3 2 3 0 [(2, 0x33)])) (fun t =>
    t.answers == [.fullItem 0x44] && !t.wrAck && view t == (3, 2, 3, 0, [(2, 0x33)]) && t.full) = true := by decide
theorem test_send_wraps : nextWith (exec (.send 0xb0) (at4 8 7 3 3 2 [(3, 0xa3), (4, 0xa4), (5, 0xa5), (6, 0xa6)]))
    (fun t => t.answers == [.ok] && t.wrAck && !t.full && t.headG == 0b000 &&
      view t == (0, 3, 3, 2, [(3, 0xa3), (4, 0xa4), (5, 0xa5), (6, 0xa6), (7, 0xb0)])) = true := by decide
theorem test_w_idle : nextWith (exec .wIdle { at4 4 1 0 0 0 [(0, 0x11)] with wrAck := true }) (fun t =>
    t.answers == [] && !t.wrAck && t.headG == 0b01 && view t == (1, 0, 0, 0, [(0, 0x11)])) = true := by decide

/-! ## Port R (V-RECV) -/

theorem test_recv_none_is_pessimistic : nextWith (exec .recv (at4 4 3 0 0 0 [(0, 0x11), (1, 0x22), (2, 0x33)]))
    (fun t => t.answers == [.noneItem] && t.rdOut == none && t.empty &&
      view t == (3, 0, 0, 0, [(0, 0x11), (1, 0x22), (2, 0x33)])) = true := by decide
theorem test_recv_wraps : nextWith (exec .recv (at4 4 1 3 1 2 [(0, 0x55), (3, 0x44)])) (fun t =>
    t.answers == [.someItem 0x44] && t.rdOut == some 0x44 && t.tailG == 0b00 && !t.empty &&
      view t == (1, 0, 1, 2, [(0, 0x55)])) = true := by decide
theorem test_r_idle : nextWith (exec .rIdle { at4 4 3 1 3 0 [(1, 0x22), (2, 0x33)] with rdOut := some 0x11 })
    (fun t => t.answers == [] && t.rdOut == none && t.tailG == 0b01 &&
      view t == (3, 1, 3, 0, [(1, 0x22), (2, 0x33)])) = true := by decide

/-! ## Counter ports (V-CTR) -/

theorem test_ctr_nop : nextWith (exec (.ctrNop 1) { atCtr 5 with ctrOut := [some 9, some 9] }) (fun t =>
    t.ctr == 5 && t.answers == [] && t.ctrOut == [some 9, none]) = true := by decide
theorem test_get : nextWith (exec (.get 1) (atCtr 5)) (fun t =>
    t.ctr == 5 && t.answers == [.value 1 5] && t.ctrOut == [none, some 5]) = true := by decide
theorem test_increment_wraps : nextWith (exec (.increment 0) (atCtr 255)) (fun t =>
    t.ctr == 0 && t.answers == []) = true := by decide
theorem test_add_wraps : nextWith (exec (.add 0 0x0a) (atCtr 250)) (fun t => t.ctr == 4 && t.answers == []) = true := by
  decide
theorem test_swap : nextWith (exec (.swap 0 0x10) (atCtr 6)) (fun t =>
    t.ctr == 16 && t.answers == [.value 0 6] && t.ctrOut == [some 6, none]) = true := by decide
/-- "7 (INIT = 7), RESET: 0 (not 7)". -/
theorem test_reset_is_not_init : nextWith (exec (.reset 0) (atCtr 7)) (fun t => t.ctr == 0 && t.answers == []) = true := by
  decide
/-- "from 10, K0: ADD 5 and K1: SWAP 0 give either (SWAP answers 10, ctr ends 5) ..." -/
theorem test_ctr_edge_swap_first : nextWith (ctrEdge [lineOf (.swap 1 0), lineOf (.add 0 5)] (atCtr 10)) (fun t =>
    t.ctr == 5 && t.answers == [.value 1 10]) = true := by decide
/-- "... or (SWAP answers 15, ctr ends 0)". -/
theorem test_ctr_edge_swap_last : nextWith (ctrEdge [lineOf (.add 0 5), lineOf (.swap 1 0)] (atCtr 10)) (fun t =>
    t.ctr == 0 && t.answers == [.value 1 15]) = true := by decide

/-! ## Reset pins (V-CON, V-RST, V-CTR) -/

/-- "Drop: from `3 2 3 0 | E E 33 E`, `H: FIFO_RESET REQ=3` gives `0 0 0 0 | E E E E`". -/
theorem test_fifo_reset_drops : nextWith (exec .fifoReset (at4 3 3 2 3 0 [(2, 0x33)])) (fun t =>
    view t == (0, 0, 0, 0, []) && t.hsync == [0, 0] && t.tsync == [0, 0] && !t.full && t.empty && t.cap == 4 &&
      t.fifoPhase == .inReset && t.ctr == 7) = true := by decide
/-- "After `H: FIFO_RESET REQ=1`: `0 0 0 0 | E`, `full = 1`, `empty = 1`, `capacity = 1`", and FIFO_RUN keeps it. -/
theorem test_fifo_run : nextWith (exec .fifoRun (State.resetOf (inst 1))) (fun t =>
    view t == (0, 0, 0, 0, []) && t.full && t.empty && t.cap == 1 && t.fifoPhase == .live) = true := by decide
theorem test_ctr_reset_loads_init : nextWith (exec .ctrReset (atCtr 99)) (fun t =>
    t.ctr == 7 && t.ctrPhase == .inReset && t.answers == []) = true := by decide
theorem test_ctr_run : nextWith (exec .ctrRun (State.resetOf (inst 4))) (fun t =>
    t.ctr == 7 && t.ctrPhase == .live) = true := by decide

/-! ## Status outputs (V-STAT, V-CON) -/

theorem test_capacity : nextWith (exec .capacity (at4 5 0 0 0 0 [])) (fun t => t.answers == [.shown 8]) = true := by
  decide
theorem test_len_w : nextWith (exec .lenW (at4 8 1 6 7 3 [])) (fun t => t.answers == [.shown 6]) = true := by decide
theorem test_len_r : nextWith (exec .lenR (at4 8 0 1 0 1 [])) (fun t => t.answers == [.shown 7]) = true := by decide
/-- CAP 4, `1 1 1 0`: truly empty, the write side does not know yet. -/
theorem test_is_empty_w : nextWith (exec .isEmptyW (at4 4 1 1 1 0 [])) (fun t => t.answers == [.shown 0]) = true := by
  decide
theorem test_is_empty_r : nextWith (exec .isEmptyR (at4 4 3 0 0 0 [])) (fun t => t.answers == [.shown 1]) = true := by
  decide
theorem test_full : nextWith (exec .full (at4 8 2 6 7 3 [])) (fun t => t.answers == [.shown 1]) = true := by decide
theorem test_empty : nextWith (exec .empty (at4 4 3 2 3 0 [])) (fun t => t.answers == [.shown 0]) = true := by decide

/-! ## Synchronizers (V-SYNC) -/

theorem test_sync_h_across_the_wrap : nextWith (exec (.syncH 2) (at4 4 1 2 3 2 [])) (fun t =>
    view t == (1, 2, 1, 2, []) && t.rdLen == 3) = true := by decide
theorem test_sync_h_beyond_the_lag : refusesWith (exec (.syncH 4) (at4 4 3 0 0 0 [])) .syncNotEnabled = true := by
  decide
theorem test_sync_t : nextWith (exec (.syncT 1) (at4 4 3 2 3 0 [])) (fun t =>
    view t == (3, 2, 3, 1, []) && !t.full && t.wrLen == 2) = true := by decide
theorem test_sync_t_not_enabled : refusesWith (exec (.syncT 1) (at4 4 3 2 3 2 [])) .syncNotEnabled = true := by decide
/-- The clocked row "wr_edge, SEND 0x33 -> OK": the chain goes from `[01,00]` to `[01,01]` at the edge. -/
theorem test_wr_edge_uses_the_old_tail_seen :
    nextWith (wrEdge (lineOf (.send 0x33)) { at4 4 2 1 1 0 [(1, 0x22)] with tsync := [0b01, 0b00] }) (fun t =>
      t.answers == [.ok] && t.headG == 0b10 && t.tsync == [0b01, 0b01] &&
        view t == (3, 1, 1, 1, [(1, 0x22), (2, 0x33)])) = true := by decide
/-- The clocked row "rd_edge, RECV -> NONE" at which `head_seen` goes from 1 to 0 around the ring. -/
theorem test_rd_edge_uses_the_old_head_seen :
    nextWith (rdEdge (lineOf .recv) { at4 4 0 1 1 1 [(1, 0x22), (2, 0x33), (3, 0x44)] with hsync := [0b00, 0b01] })
      (fun t => t.answers == [.noneItem] && t.hsync == [0b00, 0b00] &&
        view t == (0, 1, 0, 1, [(1, 0x22), (2, 0x33), (3, 0x44)])) = true := by decide
/-- Sampling, width 3, 3 to 4: "possible samples, decoded: 3, 4"; as plain binary all of 0 to 7. -/
theorem test_sampling : (List.range 8).all (fun m => [3, 4].contains (gray2bin 3 (sample 0b010 0b110 m))) = true ∧
    (List.range 8).map (sample 3 4) = [3, 2, 1, 0, 7, 6, 5, 4] := by decide
/-- V-GRAY, AW 3 and the decoded examples of AW 4. -/
theorem test_gray : (List.range 8).map bin2gray = [0b000, 0b001, 0b011, 0b010, 0b110, 0b111, 0b101, 0b100] ∧
    [0b1101, 0b1000, 0b0110, 0b1111, 0b0001].map (gray2bin 4) = [9, 15, 4, 10, 1] := by decide
/-- V-CON: REQ 0, 1, 2, 3, 5, 8, 9, 1024, 1025, 65537. -/
theorem test_capacities : [0, 1, 2, 3, 5, 8, 9, 1024, 1025, 65537].map capOf =
    [1, 1, 2, 4, 8, 8, 16, 1024, 2048, 131072] := by decide
/-- R88: a `Full` cell of data 0 is not an `Empty` one, whatever the data bits of the latter hold. -/
theorem test_cell_format : (Cell.full 0).bits 8 0 = 0b100000000 ∧ Cell.ofBits 8 0b011111111 = .empty := by decide

/-! ## Outcomes, faults and refusals (V-EXC) -/

theorem test_slot_overwrite : faultsWith (exec (.send 0x22) (at4 4 1 0 0 0 [(0, 0x11), (1, 0x99)])) .slotOverwrite =
    true := by decide
theorem test_slot_empty_read : faultsWith (exec .recv (at4 4 0 0 1 0 [])) .slotEmptyRead = true := by decide
theorem test_second_producer : refusesWith (runLine ⟨.other 0, ⟨.w, 1, 0⟩⟩ (atCtr 5)) .secondProducer = true := by decide
theorem test_reserved_counter_op : refusesWith (runLine ⟨.k 0, ⟨.k 0, 0b110, 0⟩⟩ (atCtr 5)) .reservedCounterOp = true := by
  decide
theorem test_partial_reset : refusesWith (runLine ⟨.h, ⟨.hf, 0b01, 0⟩⟩ (atCtr 5)) .partialReset = true := by decide
theorem test_send_in_reset : refusesWith (exec (.send 1) State.reset) .operationInReset = true := by decide
theorem test_wr_edge_in_reset_is_ignored : nextWith (wrEdge (lineOf (.send 1)) State.reset) (fun t =>
    !t.wrAck && t.answers == [] && view t == (0, 0, 0, 0, [])) = true := by decide
/-- What is refused in every state is refused at an edge of a domain in reset as well (R97, R206). -/
theorem test_edges_in_reset_refuse : refusesWith (wrEdge ⟨.other 0, ⟨.w, 1, 0⟩⟩ State.reset) .secondProducer = true ∧
    refusesWith (rdEdge ⟨.p, ⟨.r, 1, 0⟩⟩ State.reset) .secondConsumer = true ∧
    refusesWith (ctrEdge [⟨.k 0, ⟨.k 0, 0b110, 0⟩⟩] State.reset) .reservedCounterOp = true ∧
    refusesWith (ctrEdge [lineOf (.get 0), lineOf (.get 2)] State.reset) .noSuchCounterPort = true ∧
    refusesWith (wrEdge ⟨.p, ⟨.w, 2, 0⟩⟩ State.reset) .notOfFormat = true := by decide
/-- "SEND and RECV at one instant from `3 1 3 1 | E 22 33 E`". -/
theorem test_send_and_recv_at_one_instant :
    nextWith (bothEdges (lineOf (.send 0x44)) (lineOf .recv) 0 0 (at4 4 3 1 3 1 [(1, 0x22), (2, 0x33)])) (fun t =>
      t.answers == [.someItem 0x22, .ok] && view t == (0, 2, 3, 1, [(2, 0x33), (3, 0x44)])) = true := by decide

/-! ## Witnesses: for every obligation with hypotheses, a concrete state and operands that meet all of them -/

/-- CAP 8, live, every index elsewhere, both chains in the middle of a crossing: neither full nor empty, lag 1 on each
side. -/
def mid : State :=
  { at4 8 5 2 4 1 [(2, 0xa2), (3, 0xa3), (4, 0xa4)] with
    hsync := [bin2gray 5, bin2gray 4], tsync := [bin2gray 2, bin2gray 1] }

/-- CAP 4, P1 after step 8: full for the producer, one item stored, `tail_seen` two behind. -/
def fullState : State := at4 4 3 2 3 0 [(2, 0x33)]

/-- CAP 4, P1 after step 3: three items stored, none visible. -/
def emptyState : State := at4 4 3 0 0 0 [(0, 0x11), (1, 0x22), (2, 0x33)]

/-- CAP 1, live. -/
def oneCell : State := at4 1 0 0 0 0 []

theorem test_inv_mid : Inv mid where
  params_wf := by decide
  slots_wf := by decide
  slots_fit := by decide
  head_lt := by decide
  tail_lt := by decide
  headG_eq := by decide
  tailG_eq := by decide
  hsync_length := by decide
  tsync_length := by decide
  hsync_lt := by decide
  tsync_lt := by decide
  hsync_ordered := by decide
  tsync_ordered := by decide
  ring := by decide
  occupied := by decide
  fifo_reset := by decide
  wr_live := by decide
  rd_live := by decide
  rdOut_fits := fun _ h => by cases h
  ctr_fits := by decide
  ctr_reset := by decide
  ctr_live := by decide
  ctrOut_length := by decide

theorem test_inv_one_cell : Inv oneCell where
  params_wf := by decide
  slots_wf := by decide
  slots_fit := by decide
  head_lt := by decide
  tail_lt := by decide
  headG_eq := by decide
  tailG_eq := by decide
  hsync_length := by decide
  tsync_length := by decide
  hsync_lt := by decide
  tsync_lt := by decide
  hsync_ordered := by decide
  tsync_ordered := by decide
  ring := by decide
  occupied := by decide
  fifo_reset := by decide
  wr_live := by decide
  rd_live := by decide
  rdOut_fits := fun _ h => by cases h
  ctr_fits := by decide
  ctr_reset := by decide
  ctr_live := by decide
  ctrOut_length := by decide

/-- For EachWordHasOneMeaning: an operand at the top of its bus, and `capacity` read on port R. -/
theorem test_witness_each_word : decode ⟨.k 1, 0b011, 0xff⟩ = .ok (.add 1 0xff) ∧
    decode ⟨.sr .capacity, 0, 5⟩ = .ok .capacity := ⟨rfl, rfl⟩

/-- For SpecWordsDecode: the first value past a one-bit format. -/
theorem test_witness_spec_words : 2 ≤ 2 ∧ ¬2 ≤ 1 := by decide

/-- For StepRunsDecodedInstruction. -/
theorem test_witness_step_runs : ∃ s : State, s.faulted = [] ∧ s.input = .line (lineOf (.swap 1 0x10)) :: [.ctrPin true] ∧
    (lineOf (.swap 1 0x10)).agent = (lineOf (.swap 1 0x10)).offer.port.driver ∧
    decode (lineOf (.swap 1 0x10)).offer = .ok (.swap 1 0x10) :=
  ⟨{ mid with input := [.line (lineOf (.swap 1 0x10)), .ctrPin true] }, rfl, rfl, rfl, rfl⟩

/-- For StepOnAnEdgeRunsCommandThenShifts: the write edge, and the read edge. -/
theorem test_witness_step_on_an_edge :
    (∃ s t : State, s.faulted = [] ∧ decode (lineOf (.send 0xff)).offer = .ok (.send 0xff) ∧
      exec (.send 0xff) (s.consume []) = .next t ∧ s.input = [.wrEdge (lineOf (.send 0xff))] ∧
      (lineOf (.send 0xff)).agent = .p ∧ (lineOf (.send 0xff)).offer.port = .w ∧ s.wrRst = .out) ∧
    (∃ s t : State, s.faulted = [] ∧ decode (lineOf .recv).offer = .ok .recv ∧
      exec .recv (s.consume []) = .next t ∧ s.input = [.rdEdge (lineOf .recv)] ∧
      (lineOf .recv).agent = .c ∧ (lineOf .recv).offer.port = .r ∧ s.rdRst = .out) :=
  ⟨⟨{ mid with input := [.wrEdge (lineOf (.send 0xff))] }, _, rfl, rfl, rfl, rfl, rfl, rfl, rfl⟩,
    ⟨{ mid with input := [.rdEdge (lineOf .recv)] }, _, rfl, rfl, rfl, rfl, rfl, rfl, rfl⟩⟩

/-- For StepWithNothingOfferedOrFaulted: each clause. -/
theorem test_witness_nothing_or_faulted : (mid.faulted = [] ∧ mid.input = []) ∧
    (fullState.recordFault .slotOverwrite).faulted = .slotOverwrite :: [] := ⟨⟨rfl, rfl⟩, rfl⟩

/-- For OtherDriversAreRefused: an agent that is none of the ports', and each of P, C, a client at another's port. -/
theorem test_witness_other_drivers : Agent.other 0 ≠ .p ∧ Agent.other 0 ≠ .c ∧ Agent.c ≠ .p ∧ Agent.p ≠ .c ∧
    Agent.k 1 ≠ .k 0 ∧ Agent.p ≠ .h ∧ Agent.xt ≠ .xh ∧ Agent.xh ≠ .xt := by decide

/-- For ReservedCodesAreRefused: a reserved code among other commands of an edge. -/
theorem test_witness_reserved : ∃ (cmd : Nat) (ls : List Line), (cmd = 0b110 ∨ cmd = 0b111) ∧
    (⟨.k 1, ⟨.k 1, cmd, 9⟩⟩ : Line) ∈ ls ∧ ls.length = 2 :=
  ⟨0b111, [lineOf (.get 0), ⟨.k 1, ⟨.k 1, 0b111, 9⟩⟩], by decide, by decide, rfl⟩

/-- For FaultedNeverShrinks: a fault already recorded, and a step that faults. -/
theorem test_witness_faulted : Fault.slotOverwrite ∈ (fullState.recordFault .slotOverwrite).faulted ∧
    faultsWith (step { at4 4 0 0 1 0 [] with input := [.line (lineOf .recv)] }) .slotEmptyRead = true := by decide

/-- For ParametersNeverChange and EveryStepKeepsTheInvariant: a coinciding pair of edges with mixed samples, from a
state that meets the invariant. -/
theorem test_witness_step_next :
    Inv { mid with input := [.bothEdges (lineOf (.send 0x55)) (lineOf .recv) 0b101 0b010] } ∧
    ∃ t, step { mid with input := [.bothEdges (lineOf (.send 0x55)) (lineOf .recv) 0b101 0b010] } = .next t :=
  ⟨{ test_inv_mid with }, _, rfl⟩

/-- For CapacityIsTheLeastPowerOfTwo, at the ends: REQ 0 and 2^0, REQ 5 and 2^3, REQ 8 and 2^3. -/
theorem test_witness_capacity : max 0 1 ≤ 2 ^ 0 ∧ max 5 1 ≤ 2 ^ 3 ∧ max 8 1 ≤ 2 ^ 3 := by decide

/-- For CtrResetLoadsInit: INIT at the top of its range. -/
theorem test_witness_ctr_reset : fits ({ mid with params := { inst 8 with init := 0xff } } : State).params.cw 0xff := by
  decide

/-- For OperationsInResetAreRefused: both clauses, ports 0 and NP - 1. -/
theorem test_witness_in_reset : State.reset.fifoPhase = .inReset ∧ State.reset.ctrPhase = .inReset ∧
    0 < State.reset.params.ports ∧ 1 < State.reset.params.ports ∧ ¬2 < State.reset.params.ports := by decide

/-- For CommandsAreTakenFromTheSecondEdge: after the reset state's pins rise, the second edge of each clock takes its
command; a counter port at the end of the range. -/
theorem test_witness_second_edge : State.reset.wrRst = .held ∧ State.reset.rdRst = .held ∧ State.reset.ctrRst = .held ∧
    (lineOf (.send 0x11)).agent = .p ∧ (lineOf (.send 0x11)).offer.port = .w ∧
    decode (lineOf (.send 0x11)).offer = .ok (.send 0x11) ∧
    (lineOf .recv).agent = .c ∧ (lineOf .recv).offer.port = .r ∧ decode (lineOf .recv).offer = .ok .recv ∧
    1 < State.reset.params.ports ∧ (lineOf (.get 1)).agent = .k 1 ∧ (lineOf (.get 1)).offer.port = .k 1 ∧
    decode (lineOf (.get 1)).offer = .ok (.get 1) ∧
    nextWith (andThen (fifoPins true true State.reset) (wrEdge (lineOf (.send 0x11)))) (fun u =>
      nextWith (exec (.send 0x11) { u with fifoPhase := .live, wrRst := .out }) fun v => v.answers == [.ok]) = true ∧
    nextWith (andThen (fifoPins true true State.reset) (rdEdge (lineOf .recv))) (fun u =>
      nextWith (exec .recv { u with fifoPhase := .live, rdRst := .out }) fun v => v.answers == [.noneItem]) = true :=
  ⟨rfl, rfl, rfl, rfl, rfl, rfl, rfl, rfl, rfl, by decide, rfl, rfl, rfl, by decide, by decide⟩

/-- For PinsActOnTheirOwnDomain: each stage of a release, and edges that complete at it. -/
theorem test_witness_pins :
    ({ State.reset with wrRst := .noEdge } : State).wrRst ≠ .held ∧ State.reset.rdRst = .held ∧
    ({ State.reset with rdRst := .out } : State).rdRst ≠ .held ∧ ({ State.reset with ctrRst := .oneEdge } : State).ctrRst ≠ .held ∧
    nextWith (wrEdge (lineOf (.send 1)) { State.reset with wrRst := .oneEdge }) (fun t => t.answers == [.ok]) = true ∧
    nextWith (rdEdge (lineOf .recv) { State.reset with rdRst := .oneEdge }) (fun t => t.answers == [.noneItem]) = true ∧
    nextWith (rdEdge (lineOf .recv) State.reset) (fun t => t.answers == []) = true ∧
    nextWith (rdEdge (lineOf .recv) { State.reset with rdRst := .noEdge }) (fun t => t.rdRst == .oneEdge) = true ∧
    nextWith (wrEdge (lineOf .wIdle) State.reset) (fun t => t.answers == []) = true ∧
    nextWith (wrEdge (lineOf (.send 1)) { State.reset with wrRst := .noEdge }) (fun t => t.wrRst == .oneEdge) = true := by
  decide

/-- For PartialResetOfARunningFifoIsRefused. -/
theorem test_witness_partial_reset : mid.wrRst = .out ∧ mid.rdRst = .out := by decide

/-- For SendOnFullChangesNothing: the item 0 and the widest one. -/
theorem test_witness_send_full : fullState.fifoPhase = .live ∧ fullState.full = true ∧
    fits fullState.params.dw 0 ∧ fits fullState.params.dw 0xff := by decide

/-- For SendStoresAndPublishes: in the middle, and at the wrap of `head`. -/
theorem test_witness_send : (mid.fifoPhase = .live ∧ mid.full = false ∧ mid.head < mid.cap ∧
      mid.slots.read mid.head = .empty ∧ fits mid.params.dw 0xff) ∧
    (at4 4 3 2 3 2 [(2, 0x33)]).full = false ∧ (at4 4 3 2 3 2 [(2, 0x33)]).head + 1 = (at4 4 3 2 3 2 [(2, 0x33)]).cap ∧
    (at4 4 3 2 3 2 [(2, 0x33)]).slots.read 3 = .empty := by decide

/-- For ImpossibleAccessesFault: both clauses (V-EXC), states no run reaches. -/
theorem test_witness_impossible :
    ((at4 4 1 0 0 0 [(0, 0x11), (1, 0x99)]).fifoPhase = .live ∧ (at4 4 1 0 0 0 [(0, 0x11), (1, 0x99)]).full = false ∧
      (at4 4 1 0 0 0 [(0, 0x11), (1, 0x99)]).head < 4 ∧
      (at4 4 1 0 0 0 [(0, 0x11), (1, 0x99)]).slots.read 1 = .full 0x99) ∧
    ((at4 4 0 0 1 0 []).fifoPhase = .live ∧ (at4 4 0 0 1 0 []).empty = false ∧ (at4 4 0 0 1 0 []).tail < 4 ∧
      (at4 4 0 0 1 0 []).slots.read 0 = .empty) := by decide

/-- For RecvOnEmptyChangesNothing. -/
theorem test_witness_recv_empty : emptyState.fifoPhase = .live ∧ emptyState.empty = true := by decide

/-- For RecvTakesAndPublishes: in the middle, and at the wrap of `tail`. -/
theorem test_witness_recv : (mid.fifoPhase = .live ∧ mid.empty = false ∧ mid.tail < mid.cap ∧
      mid.slots.read mid.tail = .full 0xa2) ∧
    ((at4 4 1 3 1 2 [(0, 0x55), (3, 0x44)]).empty = false ∧ (at4 4 1 3 1 2 [(0, 0x55), (3, 0x44)]).tail + 1 = 4 ∧
      (at4 4 1 3 1 2 [(0, 0x55), (3, 0x44)]).slots.read 3 = .full 0x44) := by decide

/-- For IdleCommandsChangeNoState, GetAndSwapAnswerTheValue and IncrementAddAndResetAnswerNothing: ports 0 and NP - 1,
operands 0 and the widest. -/
theorem test_witness_counter : mid.ctrPhase = .live ∧ 0 < mid.params.ports ∧ 1 < mid.params.ports ∧
    mid.ctrOut.length = mid.params.ports ∧ fits mid.params.cw 0 ∧ fits mid.params.cw 0xff := by decide

/-- For IncrementAddAndResetAnswerNothing: each of its clauses on the operands, with a wrap. -/
theorem test_witness_counter_results : (∃ c, c = ((atCtr 255).ctr + 1) % 2 ^ 8 ∧ c = 0) ∧
    (∃ n c, fits (atCtr 250).params.cw n ∧ c = ((atCtr 250).ctr + n) % 2 ^ 8 ∧ c = 249) ∧ (∃ c : Nat, c = 0) :=
  ⟨⟨_, rfl, by decide⟩, ⟨255, _, by decide, rfl, by decide⟩, ⟨0, rfl⟩⟩

/-- For CounterPortsBeyondNpAreRefused: the first port that does not exist. -/
theorem test_witness_no_port : mid.params.ports ≤ 2 ∧ ¬mid.params.ports ≤ 1 := by decide

/-- For IncrementsAreCountedExactly: two clients, a GET and a SEND among the INCREMENTs. -/
theorem test_witness_counting :
    (atCtr 0).ctr = 0 ∧ (atCtr 0).ctrPhase = .live ∧ 1 < (atCtr 0).params.ports ∧
    (∀ i ∈ [Instr.increment 0, .get 1, .send 5, .increment 1, .increment 1],
      (∀ q n, i ≠ .add q n) ∧ (∀ q v, i ≠ .swap q v) ∧ (∀ q, i ≠ .reset q) ∧ i ≠ .ctrReset) ∧
    ∃ u, execAll [Instr.increment 0, .get 1, .send 5, .increment 1, .increment 1] (atCtr 0) = some u ∧ u.ctr = 3 :=
  ⟨by decide, by decide, by decide, by simp, _, rfl, by decide⟩

/-- For SimultaneousCountsAreNotLost: four ports, INCREMENT, SWAP, ADD of the widest and GET, the value about to wrap. -/
theorem test_witness_simultaneous :
    ∃ s : State, s.ctrPhase = .live ∧ s.ctrRst = .out ∧
      (∀ i ∈ [Instr.increment 0, .swap 2 0xff, .add 3 0xff, .get 1],
        i.wellFormed s.params = true ∧ ∃ p, (encode i).port = .k p) ∧
      ([Instr.increment 0, .swap 2 0xff, .add 3 0xff, .get 1].map fun i => (encode i).port).Nodup ∧ s.ctr = 255 ∧
      valueAfterAll s.params.cw s.ctr [Instr.increment 0, .swap 2 0xff, .add 3 0xff, .get 1] = 254 ∧
      answersOfAll s.params.cw s.ctr [Instr.increment 0, .swap 2 0xff, .add 3 0xff, .get 1] =
        [.value 2 0, .value 1 254] :=
  ⟨{ atCtr 255 with params := { inst 4 with ports := 4 } }, rfl, rfl, by simp [Instr.wellFormed, encode, inst], by decide,
    rfl, by decide, by decide⟩

/-- For StatusReadsShowAndChangeNothing: the values of each clause at a state where seen and true indices differ. -/
theorem test_witness_status : 8 = capOf mid.params.req ∧ 4 = dist mid.cap mid.tailSeen mid.head ∧
    0 = bit (decide (dist mid.cap mid.tailSeen mid.head = 0)) ∧
    0 = bit (decide ((mid.head + 1) % mid.cap = mid.tailSeen)) ∧ 2 = dist mid.cap mid.tail mid.headSeen ∧
    0 = bit (decide (dist mid.cap mid.tail mid.headSeen = 0)) ∧ 0 = bit (decide (mid.headSeen = mid.tail)) ∧
    1 = bit (decide ((fullState.head + 1) % fullState.cap = fullState.tailSeen)) ∧
    1 = bit (decide (emptyState.headSeen = emptyState.tail)) := by decide

/-- For StatusOutputsBracketTheOccupancy, with CAP 8 and with CAP 1. -/
theorem test_witness_bracket : Inv mid ∧ Inv oneCell := ⟨test_inv_mid, test_inv_one_cell⟩

theorem test_inv_empty_state : Inv emptyState where
  params_wf := by decide
  slots_wf := by decide
  slots_fit := by decide
  head_lt := by decide
  tail_lt := by decide
  headG_eq := by decide
  tailG_eq := by decide
  hsync_length := by decide
  tsync_length := by decide
  hsync_lt := by decide
  tsync_lt := by decide
  hsync_ordered := by decide
  tsync_ordered := by decide
  ring := by decide
  occupied := by decide
  fifo_reset := by decide
  wr_live := by decide
  rd_live := by decide
  rdOut_fits := fun _ h => by cases h
  ctr_fits := by decide
  ctr_reset := by decide
  ctr_live := by decide
  ctrOut_length := by decide

theorem test_inv_full_state : Inv fullState where
  params_wf := by decide
  slots_wf := by decide
  slots_fit := by decide
  head_lt := by decide
  tail_lt := by decide
  headG_eq := by decide
  tailG_eq := by decide
  hsync_length := by decide
  tsync_length := by decide
  hsync_lt := by decide
  tsync_lt := by decide
  hsync_ordered := by decide
  tsync_ordered := by decide
  ring := by decide
  occupied := by decide
  fifo_reset := by decide
  wr_live := by decide
  rd_live := by decide
  rdOut_fits := fun _ h => by cases h
  ctr_fits := by decide
  ctr_reset := by decide
  ctr_live := by decide
  ctrOut_length := by decide

/-- For SyncHMovesHeadSeen: the smallest draw and the largest. -/
theorem test_witness_sync_h : Inv emptyState ∧ emptyState.fifoPhase = .live ∧
    1 ≤ dist emptyState.cap emptyState.headSeen emptyState.head ∧
    3 ≤ dist emptyState.cap emptyState.headSeen emptyState.head := ⟨test_inv_empty_state, by decide⟩

/-- For SyncTMovesTailSeen: the smallest draw and the largest. -/
theorem test_witness_sync_t : Inv fullState ∧ fullState.fifoPhase = .live ∧
    1 ≤ dist fullState.cap fullState.tailSeen fullState.tail ∧
    2 ≤ dist fullState.cap fullState.tailSeen fullState.tail := ⟨test_inv_full_state, by decide⟩

/-- For DrawsOutsideTheLagAreNoStep: one past the lag on each side. -/
theorem test_witness_draws : emptyState.fifoPhase = .live ∧ emptyState.headLag < 4 ∧ ¬emptyState.headLag < 3 ∧
    fullState.fifoPhase = .live ∧ fullState.tailLag < 3 ∧ ¬fullState.tailLag < 2 := by decide

/-- For GrayCodesAreInverse, GrayNeighboursDifferInOneBit and SampledIndexIsOldOrNew: the last index, of AW 3, 1
and 0. -/
theorem test_witness_gray : 7 < 2 ^ 3 ∧ 1 ≤ 3 ∧ 1 < 2 ^ 1 ∧ 1 ≤ 1 ∧ 0 < 2 ^ 0 := by decide

/-- For SamplingIsOldOrNewPerBit: 3 to 4 read as 6. -/
theorem test_witness_sampling : ∀ i, (6 : Nat).testBit i = (3 : Nat).testBit i ∨ (6 : Nat).testBit i = (4 : Nat).testBit i := by
  intro i
  by_cases h : i < 3
  · interval_cases i <;> decide
  · exact .inl (by rw [Nat.testBit_lt_two_pow, Nat.testBit_lt_two_pow] <;>
      exact lt_of_lt_of_le (by decide : _ < 2 ^ 3) (Nat.pow_le_pow_right (by decide) (Nat.not_lt.1 h)))

/-- For CellFormatIsFaithful: an empty cell, and the widest item. -/
theorem test_witness_cells : (∀ d, Cell.empty = .full d → fits 8 d) ∧ (∀ d, Cell.full 0xff = .full d → fits 8 d) :=
  ⟨fun _ h => (by cases h), fun _ h => (by cases h; decide)⟩

/-- For ResetEstablishesTheInvariant: the default instance, and the smallest one of every range. -/
theorem test_witness_params : Params.default.wf ∧ ({ req := 0, dw := 1, cw := 1, init := 1, stages := 2, ports := 1 } : Params).wf := by
  decide

/-- For NoStepFaults. -/
theorem test_witness_no_step_faults : Inv { mid with input := [.line (lineOf .recv)] } ∧ mid.faulted = [] :=
  ⟨{ test_inv_mid with }, rfl⟩

/-- For OptimisticFlagsNeverOccur, SidesNeverTouchTheSameCell and SendAndRecvCommute: both flags clear at once. -/
theorem test_witness_flags : Inv mid ∧ mid.fifoPhase = .live ∧ mid.full = false ∧ mid.empty = false :=
  ⟨test_inv_mid, by decide⟩

/-- For SeenIndicesNeverStepBack and LagsShrinkWhileIndicesStand: edges that move `head_seen` and `tail_seen`. -/
theorem test_witness_seen :
    (Inv { mid with input := [.rdEdge (lineOf .rIdle)] } ∧
      ∃ t, step { mid with input := [.rdEdge (lineOf .rIdle)] } = .next t ∧ t.fifoPhase = .live ∧ t.head = mid.head ∧
        t.headSeen ≠ mid.headSeen) ∧
    (Inv { mid with input := [.wrEdge (lineOf .wIdle)] } ∧
      ∃ t, step { mid with input := [.wrEdge (lineOf .wIdle)] } = .next t ∧ t.fifoPhase = .live ∧ t.tail = mid.tail ∧
        t.tailSeen ≠ mid.tailSeen) :=
  ⟨⟨{ test_inv_mid with }, _, rfl, by decide, by decide, by decide⟩,
    ⟨{ test_inv_mid with }, _, rfl, by decide, by decide, by decide⟩⟩

/-- For CapacityOneAlwaysRefuses. -/
theorem test_witness_one_cell : Inv oneCell ∧ oneCell.fifoPhase = .live ∧ oneCell.cap = 1 := ⟨test_inv_one_cell, by decide⟩

/-- For TheTwoPartsAreIndependent: an operation of each port it names that completes. -/
theorem test_witness_two_parts :
    ([Instr.send 1, .recv, .fifoReset, .syncH 1, .syncT 1, .add 1 3, .ctrReset].all fun i =>
      nextWith (exec i mid) fun _ => true) = true ∧
    [Instr.send 1, .recv, .fifoReset, .syncH 1, .syncT 1, .add 1 3, .ctrReset].map (fun i => (encode i).port) =
      [.w, .r, .hf, .xh, .xt, .k 1, .hk] := by decide

/-- For ItemsComeOutInTheOrderSent: SENDs, RECVs and synchronizer steps mixed, items stored at first. -/
theorem test_witness_order : Inv mid ∧ .fifoReset ∉ [Instr.recv, .send 0x55, .syncH 2, .recv, .recv] ∧
    ∃ u, traffic [Instr.recv, .send 0x55, .syncH 2, .recv, .recv] mid = some (u, [0x55], [0xa2, 0xa3, 0xa4]) ∧
      u.contents = [0x55] := ⟨test_inv_mid, by decide, _, rfl, by decide⟩

/-- For CapacityMinusOneSendsThenFull: CAP 4, and CAP 1 with no item at all. -/
theorem test_witness_fill : (inst 4).wf ∧ [0x11, 0x22, 0xff].length + 1 = capOf (inst 4).req ∧
    (∀ d ∈ [0x11, 0x22, 0xff], fits (inst 4).dw d) ∧ fits (inst 4).dw 0x44 ∧
    (inst 1).wf ∧ ([] : List Nat).length + 1 = capOf (inst 1).req := by decide

/-- For SendSyncReceiveRoundTrip: S2's values, and a FIFO filled to the last usable cell. -/
theorem test_witness_round_trip : (inst 8).wf ∧ [5, 9, 2] ≠ [] ∧ [5, 9, 2].length + 1 ≤ capOf (inst 8).req ∧
    (∀ d ∈ [5, 9, 2], fits (inst 8).dw d) ∧ [0x0a] ≠ [] ∧ [0x0a].length + 1 ≤ capOf (inst 2).req := by decide

/-- For ReadEdgeRefinesUntimedSteps: a RECV at an edge that moves `head_seen`. -/
theorem test_witness_read_edge : Inv mid ∧ mid.rdRst = .out ∧ decode (lineOf .recv).offer = .ok .recv ∧
    ∃ t, rdEdge (lineOf .recv) mid = .next t ∧ t.headSeen ≠ mid.headSeen :=
  ⟨test_inv_mid, by decide, rfl, _, rfl, by decide⟩

/-- For WriteEdgeRefinesUntimedSteps: a SEND at an edge that moves `tail_seen`. -/
theorem test_witness_write_edge : Inv mid ∧ mid.wrRst = .out ∧ decode (lineOf (.send 3)).offer = .ok (.send 3) ∧
    ∃ t, wrEdge (lineOf (.send 3)) mid = .next t ∧ t.tailSeen ≠ mid.tailSeen :=
  ⟨test_inv_mid, by decide, rfl, _, rfl, by decide⟩

/-- For CoincidingEdgesRefineUntimedSteps: both chains move and both commands succeed, with mixed samples. -/
theorem test_witness_both_edges : Inv mid ∧ mid.wrRst = .out ∧ mid.rdRst = .out ∧
    decode (lineOf (.send 3)).offer = .ok (.send 3) ∧ decode (lineOf .recv).offer = .ok .recv ∧
    ∃ t, bothEdges (lineOf (.send 3)) (lineOf .recv) 0b010 0b101 mid = .next t ∧ t.headSeen ≠ mid.headSeen ∧
      t.tailSeen ≠ mid.tailSeen :=
  ⟨test_inv_mid, by decide, by decide, rfl, rfl, _, rfl, by decide, by decide⟩

/-- For IndicesAreSeenAfterSEdges: read edges with a RECV, write edges with a SEND, each index not seen at first. -/
theorem test_witness_edges :
    (∃ s : State, Inv s ∧ s.faulted = [] ∧ [Instr.rIdle, .recv].length = s.params.stages ∧
      (∀ i ∈ [Instr.rIdle, .recv], i = .rIdle ∨ i = .recv) ∧ s.rdRst = .out ∧
      s.input = ([Instr.rIdle, .recv].map fun i => .rdEdge (lineOf i)) ∧ s.headSeen ≠ s.head) ∧
    (∃ s : State, Inv s ∧ s.faulted = [] ∧ [Instr.send 0xff, .wIdle].length = s.params.stages ∧
      (∀ i ∈ [Instr.send 0xff, .wIdle], i = .wIdle ∨ ∃ item, i = .send item) ∧ s.wrRst = .out ∧
      s.input = ([Instr.send 0xff, .wIdle].map fun i => .wrEdge (lineOf i)) ∧ s.tailSeen ≠ s.tail) :=
  ⟨⟨{ emptyState with input := [.rdEdge (lineOf .rIdle), .rdEdge (lineOf .recv)] }, { test_inv_empty_state with },
      rfl, rfl, by decide, rfl, rfl, by decide⟩,
    ⟨{ fullState with input := [.wrEdge (lineOf (.send 0xff)), .wrEdge (lineOf .wIdle)] }, { test_inv_full_state with },
      rfl, rfl, by simp, rfl, rfl, by decide⟩⟩

/-! ### Endless runs -/

/-- The run from `s` under the stream `env`. -/
def runOf (env : Nat → Option Input) (s : State) : Nat → State
  | 0 => s
  | n + 1 => recordedStep ((runOf env s n).offered (env n))

/-- Where every step from a state with `P` completes into one, from step `k` on, the run is endless from there on. -/
theorem runOf_from {env : Nat → Option Input} {s : State} {P : State → Prop} {k : Nat} (h0 : P (runOf env s k))
    (h : ∀ n u, k ≤ n → P u → ∃ t, step (u.offered (env n)) = .next t ∧ P t) (n : Nat) :
    P (runOf env s (k + n)) ∧ step ((runOf env s (k + n)).offered (env (k + n))) = .next (runOf env s (k + n + 1)) := by
  have key : ∀ m, P (runOf env s (k + m)) → P (runOf env s (k + m + 1)) ∧
      step ((runOf env s (k + m)).offered (env (k + m))) = .next (runOf env s (k + m + 1)) := fun m hm => by
    obtain ⟨t, ht, hP⟩ := h (k + m) _ (Nat.le_add_right k m) hm
    have : runOf env s (k + m + 1) = t := by simp [runOf, recordedStep, ht]
    rw [this]
    exact ⟨hP, ht⟩
  induction n with
  | zero => exact ⟨h0, (key 0 h0).2⟩
  | succ n ih => exact ⟨(key n ih.1).1, (key (n + 1) (key n ih.1).1).2⟩

/-- XH catches up, C takes the three items of `mid`, XT catches up, and C goes on taking RECVs for ever. -/
def retrying : Nat → Option Input
  | 0 => some (.line (lineOf (.syncH 1)))
  | 4 => some (.line (lineOf (.syncT 4)))
  | _ => some (.line (lineOf .recv))

/-- Drained, and both sides know. -/
def Drained (s : State) : Prop :=
  s.faulted = [] ∧ s.fifoPhase = .live ∧ s.head = 5 ∧ s.tail = 5 ∧ s.headSeen = 5 ∧ s.tailSeen = 5

/-- C finds the FIFO empty at its next RECV. -/
theorem recv_on_drained (u : State) (h : Drained u) : ∃ t, execRecv u = .next t ∧ Drained t := by
  obtain ⟨h1, h2, h3, h4, h5, h6⟩ := h
  exact ⟨_, execRecv_next.2 ⟨h2, .inl ⟨beq_iff_eq.2 (h5.trans h4.symm), rfl⟩⟩, h1, h2, h3, h4, h5, h6⟩

theorem retrying_drained (n : Nat) (u : State) (hn : 5 ≤ n) (h : Drained u) :
    ∃ t, step (u.offered (retrying n)) = .next t ∧ Drained t := by
  have he : retrying n = some (.line (lineOf .recv)) := by
    match n, hn with
    | n + 5, _ => rfl
  obtain ⟨t, ht, hd⟩ := recv_on_drained ((u.offered (some (.line (lineOf .recv)))).consume []) h
  refine ⟨t, ?_, hd⟩
  have hf : (u.offered (some (.line (lineOf .recv)))).faulted = [] := h.1
  rw [he, ← ht]
  unfold step
  rw [hf]
  rfl

theorem retrying_isRun : IsRun retrying (runOf retrying mid)
  | 0 => rfl
  | 1 => rfl
  | 2 => rfl
  | 3 => rfl
  | 4 => rfl
  | n + 5 => by
    have := (runOf_from (s := mid) (k := 5) (by unfold Drained; decide) retrying_drained n).2
    rwa [Nat.add_comm 5 n] at this

theorem retrying_settles (n : Nat) : Drained (runOf retrying mid (n + 5)) := by
  have := (runOf_from (s := mid) (k := 5) (by unfold Drained; decide) retrying_drained n).1
  rwa [Nat.add_comm 5 n] at this

theorem retrying_fairHead : FairHead (runOf retrying mid) := fun n h =>
  have hd := retrying_settles n
  absurd (hd.2.2.2.2.1.trans hd.2.2.1.symm) (h (n + 5) (by omega)).2

theorem retrying_head (m : Nat) : (runOf retrying mid m).head = 5 := by
  match m with
  | 0 | 1 | 2 | 3 | 4 => decide
  | m + 5 => exact (retrying_settles m).2.2.1

/-- For HeadBecomesVisible: C retries for ever, and `head_seen` is behind at first. -/
theorem test_witness_head_visible : IsRun retrying (runOf retrying mid) ∧ Inv (runOf retrying mid 0) ∧
    FairHead (runOf retrying mid) ∧
    (∀ m, 0 ≤ m → (runOf retrying mid m).head = (runOf retrying mid 0).head) ∧
    (runOf retrying mid 0).headSeen ≠ (runOf retrying mid 0).head :=
  ⟨retrying_isRun, test_inv_mid, retrying_fairHead, fun m _ => retrying_head m, by decide⟩

/-- For TailBecomesVisible: `tail` moves before step 4 and stands from there on, `tail_seen` behind it. -/
theorem test_witness_tail_visible : IsRun retrying (runOf retrying mid) ∧ Inv (runOf retrying mid 0) ∧
    FairTail (runOf retrying mid) ∧
    (∀ m, 4 ≤ m → (runOf retrying mid m).tail = (runOf retrying mid 4).tail) ∧
    (runOf retrying mid 4).tailSeen ≠ (runOf retrying mid 4).tail := by
  refine ⟨retrying_isRun, test_inv_mid, fun n h => ?_, fun m hm => ?_, by decide⟩
  · have hd := retrying_settles n
    exact absurd (hd.2.2.2.2.2.trans hd.2.2.2.1.symm) (h (n + 5) (by omega)).2
  · match m, hm with
    | 4, _ => rfl
    | m + 5, _ => exact (retrying_settles m).2.2.2.1

/-- For RetryingConsumerDrainsTheFifo: three items stored at first. -/
theorem test_witness_drain : IsRun retrying (runOf retrying mid) ∧ Inv (runOf retrying mid 0) ∧
    FairHead (runOf retrying mid) ∧ (∀ m, ∃ j, m ≤ j ∧ RecvTaken retrying (runOf retrying mid) j) ∧
    (∀ m, 0 ≤ m → (runOf retrying mid m).head = (runOf retrying mid 0).head) ∧ (runOf retrying mid 0).occupancy = 3 :=
  ⟨retrying_isRun, test_inv_mid, retrying_fairHead, fun m => ⟨m + 5, by omega, .inl rfl⟩, fun m _ => retrying_head m,
    by decide⟩

/-- The three clocks in turn, no port making a call. -/
def ticking (n : Nat) : Option Input :=
  match n % 3 with
  | 0 => some (.wrEdge (lineOf .wIdle))
  | 1 => some (.rdEdge (lineOf .rIdle))
  | _ => some (.ctrEdge [])

/-- Every domain runs. -/
def Running (s : State) : Prop := s.faulted = [] ∧ s.wrRst = .out ∧ s.rdRst = .out ∧ s.ctrRst = .out

theorem ticking_running (n : Nat) (u : State) (h : Running u) : ∃ t, step (u.offered (ticking n)) = .next t ∧ Running t := by
  obtain ⟨h1, h2, h3, h4⟩ := h
  have hn : n % 3 = 0 ∨ n % 3 = 1 ∨ n % 3 = 2 := by omega
  rcases hn with hn | hn | hn <;>
    simp [Running, ticking, hn, step, State.offered, h1, h2, h3, h4, runInput, wrEdge, rdEdge, ctrEdge, wrCommand, rdCommand,
      lineOf, encode, Port.driver, State.wrResetEdge, State.rdResetEdge, State.ctrResetEdge, State.ctrEdgeStart,
      RstSync.afterEdge, runLine,
      lineOperation, roleRefusal, decode, decodeW, decodeR, exec, execWIdle, execRIdle, andThen, State.shiftTail,
      State.shiftHead, eachLine]

theorem ticking_isClocked : IsClocked ticking := by
  refine ⟨fun n => ?_, fun n => ⟨3 * n, by omega, ?_⟩, fun n => ⟨3 * n + 1, by omega, ?_⟩, fun n => ⟨3 * n + 2, by omega, ?_⟩⟩
  · have hn : n % 3 = 0 ∨ n % 3 = 1 ∨ n % 3 = 2 := by omega
    rcases hn with hn | hn | hn <;> exact ⟨_, by simp only [ticking, hn]; rfl, rfl⟩
  · exact ⟨_, by simp only [ticking, show 3 * n % 3 = 0 by omega]; rfl, rfl⟩
  · exact ⟨_, by simp only [ticking, show (3 * n + 1) % 3 = 1 by omega]; rfl, rfl⟩
  · exact ⟨_, by simp only [ticking, show (3 * n + 2) % 3 = 2 by omega]; rfl, rfl⟩

/-- For RunningClocksAreFair: both seen indices behind at first. -/
theorem test_witness_clocks : IsRun ticking (runOf ticking mid) ∧ IsClocked ticking ∧ Inv (runOf ticking mid 0) ∧
    (∀ n, (runOf ticking mid n).wrRst = .out ∧ (runOf ticking mid n).rdRst = .out) ∧
    (runOf ticking mid 0).headSeen ≠ (runOf ticking mid 0).head ∧
    (runOf ticking mid 0).tailSeen ≠ (runOf ticking mid 0).tail := by
  have h := fun n => runOf_from (env := ticking) (s := mid) (P := Running) (k := 0) ⟨rfl, rfl, rfl, rfl⟩
    (fun n u _ => ticking_running n u) n
  simp only [Nat.zero_add] at h
  exact ⟨fun n => (h n).2, ticking_isClocked, test_inv_mid, fun n => ⟨(h n).1.2.1, (h n).1.2.2.1⟩, by decide, by decide⟩

end Sys2Proof.Tests
end

namespace Sys2Proof.Machine

/-! ## The parameters (00_scope.md R6, R10, R13): the capacity, and what no step changes -/

/-- AW is the least exponent whose power of two reaches `max(n, 1)` (00_scope.md R6, R13). -/
theorem awOf_le_iff {n b : Nat} : awOf n ≤ b ↔ max n 1 ≤ 2 ^ b := by
  have hpos : 1 ≤ 2 ^ b := Nat.one_le_two_pow
  unfold awOf
  split
  case isTrue hn => simp [hn, hpos]
  case isFalse hn =>
    rw [Nat.succ_le_iff, Nat.log2_lt (by omega)]
    omega

/-- Settles O11: `awOf_le_iff` read at `b = awOf n` is the lower bound, read from right to left it is leastness. -/
theorem capacityIsTheLeastPowerOfTwo : Obligations.CapacityIsTheLeastPowerOfTwo := fun n =>
  ⟨⟨awOf n, rfl⟩, awOf_le_iff.1 le_rfl, fun _ h => Nat.pow_le_pow_right Nat.two_pos (awOf_le_iff.2 h)⟩

namespace SameFrame

variable {s t u : State}

theorem refl (s : State) : SameFrame s s := ⟨rfl, rfl, rfl, rfl⟩

theorem trans (h : SameFrame s t) (h' : SameFrame t u) : SameFrame s u := by
  obtain ⟨hp, hf, hi, hs⟩ := h
  obtain ⟨hp', hf', hi', hs'⟩ := h'
  exact ⟨hp'.trans hp, hf'.trans hf, hi'.trans hi, hs'.trans hs⟩

/-! What operations and edges are made of keeps the frame. -/

theorem counterNext (s : State) (p c : Nat) (v : Option Nat) : SameFrame s (counterNext s p c v) := by
  cases v <;> exact ⟨rfl, rfl, rfl, rfl⟩

theorem wrResetEdge (s : State) : SameFrame s s.wrResetEdge := by
  unfold State.wrResetEdge
  split <;> exact ⟨rfl, rfl, rfl, rfl⟩

theorem rdResetEdge (s : State) : SameFrame s s.rdResetEdge := by
  unfold State.rdResetEdge
  split <;> exact ⟨rfl, rfl, rfl, rfl⟩

theorem ctrEdgeStart (s : State) : SameFrame s s.ctrEdgeStart := by
  unfold State.ctrEdgeStart State.ctrResetEdge
  split <;> exact ⟨rfl, rfl, rfl, rfl⟩

theorem shiftTail (s : State) (v : Nat) : SameFrame s (s.shiftTail v) := by
  unfold State.shiftTail
  split <;> exact ⟨rfl, rfl, rfl, rfl⟩

theorem shiftHead (s : State) (v : Nat) : SameFrame s (s.shiftHead v) := by
  unfold State.shiftHead
  split <;> exact ⟨rfl, rfl, rfl, rfl⟩

/-! Every operation, line, edge and schedule entry that completes keeps the frame. -/

theorem of_execSend {item : Nat} (h : execSend item s = .next t) : SameFrame s t := by
  obtain ⟨-, ⟨-, rfl⟩ | ⟨-, -, -, rfl⟩⟩ := execSend_next.1 h <;> exact ⟨rfl, rfl, rfl, rfl⟩

theorem of_execRecv (h : execRecv s = .next t) : SameFrame s t := by
  obtain ⟨-, ⟨-, rfl⟩ | ⟨-, -, -, -, rfl⟩⟩ := execRecv_next.1 h <;> exact ⟨rfl, rfl, rfl, rfl⟩

theorem of_exec {i : Instr} (h : exec i s = .next t) : SameFrame s t := by
  have hn := exec_next h
  cases i with
  | send item => exact of_execSend hn
  | recv => exact of_execRecv hn
  | ctrNop p => obtain ⟨-, rfl⟩ := hn; exact ⟨rfl, rfl, rfl, rfl⟩
  | get p | increment p | add p n | swap p v | reset p =>
    obtain ⟨-, -, rfl⟩ := hn
    exact counterNext ..
  | syncH k | syncT k => obtain ⟨-, -, rfl⟩ := hn; exact ⟨rfl, rfl, rfl, rfl⟩
  | _ => cases hn; exact ⟨rfl, rfl, rfl, rfl⟩

theorem of_runLine {l : Line} (h : runLine l s = .next t) : SameFrame s t := by
  obtain ⟨-, i, -, he⟩ := runLine_next.1 h
  exact of_exec he

theorem of_eachLine {f : Line → State → Host.Outcome State Fault Refusal} {ls : List Line}
    (hf : ∀ l u v, f l u = .next v → SameFrame u v) (h : eachLine f ls s = .next t) : SameFrame s t :=
  eachLine_induct (P := SameFrame s) (fun l u v hu hv => hu.trans (hf l u v hv)) (refl s) h

theorem of_wrCommand {l : Line} (h : wrCommand l s = .next t) : SameFrame s t := by
  obtain ⟨-, ⟨-, -, i, -, -, he⟩ | ⟨-, -, -, rfl⟩⟩ := wrCommand_next h
  · exact (wrResetEdge s).trans (of_exec he)
  · exact wrResetEdge s

theorem of_rdCommand {l : Line} (h : rdCommand l s = .next t) : SameFrame s t := by
  obtain ⟨-, ⟨-, -, i, -, -, he⟩ | ⟨-, -, -, rfl⟩⟩ := rdCommand_next h
  · exact (rdResetEdge s).trans (of_exec he)
  · exact rdResetEdge s

theorem of_wrEdge {l : Line} (h : wrEdge l s = .next t) : SameFrame s t := by
  obtain ⟨u, hu, ht⟩ := andThen_next.1 h
  cases ht
  exact (of_wrCommand hu).trans (shiftTail u _)

theorem of_rdEdge {l : Line} (h : rdEdge l s = .next t) : SameFrame s t := by
  obtain ⟨u, hu, ht⟩ := andThen_next.1 h
  cases ht
  exact (of_rdCommand hu).trans (shiftHead u _)

theorem of_bothEdges {lw lr : Line} {hMix tMix : Nat} (h : bothEdges lw lr hMix tMix s = .next t) : SameFrame s t := by
  obtain ⟨u, hu, h⟩ := andThen_next.1 h
  obtain ⟨v, hv, ht⟩ := andThen_next.1 h
  cases ht
  exact (of_rdCommand hu).trans ((of_wrCommand hv).trans ((shiftTail v _).trans (shiftHead _ _)))

theorem of_ctrEdge {ls : List Line} (h : ctrEdge ls s = .next t) : SameFrame s t := by
  obtain ⟨-, ⟨-, he⟩ | ⟨-, -, rfl⟩⟩ := ctrEdge_next h
  · exact (ctrEdgeStart s).trans (of_eachLine (fun _ _ _ => of_runLine) he)
  · exact ctrEdgeStart s

theorem of_fifoPins {wr rd : Bool} (h : fifoPins wr rd s = .next t) : SameFrame s t := by
  unfold fifoPins at h
  split at h
  · cases h; exact ⟨rfl, rfl, rfl, rfl⟩
  · split at h
    · cases h
    · cases h; exact ⟨rfl, rfl, rfl, rfl⟩

theorem of_ctrPin {v : Bool} (h : ctrPin v s = .next t) : SameFrame s t := by
  unfold ctrPin at h
  split at h <;> cases h <;> exact ⟨rfl, rfl, rfl, rfl⟩

theorem of_runInput {x : Input} (h : runInput x s = .next t) : SameFrame s t := by
  cases x with
  | line l => exact of_runLine h
  | wrEdge l => exact of_wrEdge h
  | rdEdge l => exact of_rdEdge h
  | bothEdges lw lr hMix tMix => exact of_bothEdges h
  | ctrEdge ls => exact of_ctrEdge h
  | fifoPins wr rd => exact of_fifoPins h
  | ctrPin v => exact of_ctrPin h

end SameFrame

/-- Settles O10: a step takes an entry off the schedule, which moves neither, and runs it, which keeps the frame. -/
theorem parametersNeverChange : Obligations.ParametersNeverChange := fun s t h => by
  obtain ⟨-, ⟨-, rfl⟩ | ⟨x, rest, -, hx⟩⟩ := step_next h
  · exact ⟨rfl, rfl⟩
  · obtain ⟨hp, hf, -, -⟩ := SameFrame.of_runInput hx
    exact ⟨hp, hf⟩

/-! ## The Gray code (00_scope.md R16) -/

/-- The encoder is linear over bits. -/
theorem bin2gray_xor (a b : Nat) : bin2gray (a ^^^ b) = bin2gray a ^^^ bin2gray b := by
  unfold bin2gray
  rw [Nat.shiftRight_xor_distrib]
  ac_rfl

theorem bin2gray_shiftRight (b n : Nat) : bin2gray (b >>> n) = bin2gray b >>> n := by
  unfold bin2gray
  rw [Nat.shiftRight_xor_distrib, ← Nat.shiftRight_add, ← Nat.shiftRight_add, Nat.add_comm]

/-- The decoder is an exclusive or of shifts, so the encoder passes through it. -/
theorem bin2gray_gray2bin_comm (n g : Nat) : bin2gray (gray2bin n g) = gray2bin n (bin2gray g) := by
  induction n with
  | zero => exact bin2gray_zero
  | succ n ih => rw [gray2bin, bin2gray_xor, ih, bin2gray_shiftRight, gray2bin]

/-- `bin2gray(gray2bin(g)) = g` on `aw` bits (00_scope.md R16). -/
theorem bin2gray_gray2bin {aw g : Nat} (h : g < 2 ^ aw) : bin2gray (gray2bin aw g) = g := by
  rw [bin2gray_gray2bin_comm, gray2bin_bin2gray h]

/-- Settles O35: decoding a code telescopes, and encoding commutes with decoding. -/
theorem grayCodesAreInverse : Obligations.GrayCodesAreInverse := fun aw _ h =>
  ⟨bin2gray_lt h, gray2bin_lt h aw, gray2bin_bin2gray h, bin2gray_gray2bin h⟩

/-- The code of a run of ones from bit 0 up is its top bit alone. -/
theorem bin2gray_two_pow_sub_one (i : Nat) : bin2gray (2 ^ (i + 1) - 1) = 2 ^ i := by
  have h : (2 ^ (i + 1) - 1) >>> 1 = 2 ^ i - 1 := by
    rw [Nat.shiftRight_one]
    omega
  apply Nat.eq_of_testBit_eq
  intro j
  rw [bin2gray, h, Nat.testBit_xor]
  simp only [Nat.testBit_two_pow_sub_one, Nat.testBit_two_pow]
  grind

/-- On a ring of twice the size, an even index moves on by setting bit 0. -/
theorem inc_bit_false {cap c : Nat} (h : c < cap) : inc (2 * cap) (Nat.bit false c) = Nat.bit true c :=
  Nat.mod_eq_of_lt (show 2 * c + 1 < 2 * cap by omega)

/-- On a ring of twice the size, an odd index clears bit 0 and carries into the index of the half ring. -/
theorem inc_bit_true (cap c : Nat) : inc (2 * cap) (Nat.bit true c) = Nat.bit false (inc cap c) :=
  Nat.mul_mod_mul_left 2 (c + 1) cap

/-- Moving an index one step on, the wrap included, flips a run of bits from bit 0 up. -/
theorem xor_inc {aw b : Nat} (h : b < 2 ^ (aw + 1)) :
    ∃ i ≤ aw, b ^^^ inc (2 ^ (aw + 1)) b = 2 ^ (i + 1) - 1 := by
  induction aw generalizing b with
  | zero => interval_cases b <;> exact ⟨0, le_rfl, rfl⟩
  | succ aw ih =>
    cases b using Nat.bitCasesOn with
    | bit x c =>
      have hc : c < 2 ^ (aw + 1) := Nat.bit_lt_two_pow_succ_iff.1 h
      rw [pow_succ']
      cases x with
      | false => exact ⟨0, Nat.zero_le _, by rw [inc_bit_false hc, Nat.xor_bit, Nat.xor_self]; rfl⟩
      | true =>
        obtain ⟨i, hi, hx⟩ := ih hc
        refine ⟨i + 1, by omega, ?_⟩
        have hpos := Nat.two_pow_pos (i + 1)
        rw [inc_bit_true, Nat.xor_bit, hx, pow_succ' 2 (i + 1)]
        show 2 * (2 ^ (i + 1) - 1) + 1 = 2 * 2 ^ (i + 1) - 1
        omega

/-- Settles O36: by linearity the two codes differ by the code of the bits that `inc` flips, a run of ones. -/
theorem grayNeighboursDifferInOneBit : Obligations.GrayNeighboursDifferInOneBit := by
  intro aw b haw hb
  obtain ⟨n, rfl⟩ := Nat.exists_eq_add_of_le' haw
  obtain ⟨i, hi, hx⟩ := xor_inc hb
  refine ⟨i, by omega, ?_⟩
  rw [← bin2gray_xor, hx, bin2gray_two_pow_sub_one]

end Sys2Proof.Machine

namespace Sys2Proof.Machine

/-! ## Recorded faults (10_state.md R41) -/

/-- Recording a reason adds it and drops none. -/
theorem mem_recordIn {f g : Fault} {l : List Fault} : g ∈ recordIn f l ↔ g = f ∨ g ∈ l := by
  cases g <;> simp [recordIn]

/-- Settles O9: a step that completes leaves the record alone, one that faults adds its reason to it. -/
theorem faultedNeverShrinks : Obligations.FaultedNeverShrinks := fun s => by
  unfold recordedStep
  cases h : step s with
  | next t => exact ⟨fun f hf => by rwa [(parametersNeverChange s t h).2], fun _ hf => by cases hf⟩
  | fault f =>
    exact ⟨fun g hg => mem_recordIn.2 (.inr hg), fun g hg => by cases hg; exact mem_recordIn.2 (.inl rfl)⟩
  | refused r => exact ⟨fun _ hf => hf, fun _ hf => by cases hf⟩

/-! ## What a chain may take in (43_fifo_sync.md R148 to R150) -/

/-- `v` may enter a chain whose source stands at `index`: it has AW bits, and it is no further behind the source than
any stage, so that the chain stays in order (43_fifo_sync.md R150). -/
def MayEnter (aw cap : Nat) (chain : List Nat) (index v : Nat) : Prop :=
  v < cap ∧ ∀ g ∈ chain, dist cap (gray2bin aw v) index ≤ dist cap (gray2bin aw g) index

/-- The source's own code may enter. -/
theorem mayEnter_code {aw cap index : Nat} (hcap : cap = 2 ^ aw) (hi : index < cap) (chain : List Nat) :
    MayEnter aw cap chain index (bin2gray index) := by
  subst hcap
  refine ⟨bin2gray_lt hi, fun g _ => ?_⟩
  rw [gray2bin_bin2gray hi, dist_self hi]
  exact Nat.zero_le _

/-- The code from before the source moved one step may enter: every lag, that code's too, has grown by one. -/
theorem mayEnter_code_inc {aw cap index : Nat} {chain : List Nat} (hcap : cap = 2 ^ aw) (hi : index < cap)
    (hlt : ∀ g ∈ chain, g < cap) (ho : ChainOrdered aw cap chain index)
    (room : dist cap (gray2bin aw (chain.getLastD 0)) index + 1 < cap) :
    MayEnter aw cap chain (inc cap index) (bin2gray index) := by
  subst hcap
  refine ⟨bin2gray_lt hi, fun g hg => ?_⟩
  have hle := ho.le_last hg
  rw [gray2bin_bin2gray hi, dist_inc_right hi hi (by rw [dist_self hi]; omega), dist_self hi,
    dist_inc_right (gray2bin_lt (hlt g hg) aw) hi (by omega)]
  omega

theorem sample_same (r mix : Nat) : sample r r mix = r := by simp [sample]

/-- Where two registers differ in one bit, a sample taken between them is one of the two. -/
theorem sample_of_xor_two_pow {old new i : Nat} (h : old ^^^ new = 2 ^ i) (mix : Nat) :
    sample old new mix = old ∨ sample old new mix = new := by
  unfold sample
  rw [h, Nat.two_pow_and]
  cases mix.testBit i with
  | false => left; simp
  | true => right; simp [← h]

/-- A sample of a Gray copy, taken while its index moves one step, is the old code or the new one (43_fifo_sync.md
R149). -/
theorem sample_bin2gray_inc {aw b : Nat} (hb : b < 2 ^ aw) (mix : Nat) :
    sample (bin2gray b) (bin2gray (inc (2 ^ aw) b)) mix = bin2gray b ∨
      sample (bin2gray b) (bin2gray (inc (2 ^ aw) b)) mix = bin2gray (inc (2 ^ aw) b) := by
  cases aw with
  | zero =>
    obtain rfl : b = 0 := by omega
    exact .inl (sample_same _ mix)
  | succ n =>
    obtain ⟨i, -, hx⟩ := grayNeighboursDifferInOneBit (n + 1) b (by omega) hb
    exact sample_of_xor_two_pow hx mix

/-- Whatever a chain samples while its source stands, or moves one step on with room, may enter. -/
theorem mayEnter_sample {aw cap index index' : Nat} {chain : List Nat} (hcap : cap = 2 ^ aw) (hi : index < cap)
    (hlt : ∀ g ∈ chain, g < cap) (ho : ChainOrdered aw cap chain index)
    (hmove : index' = index ∨
      dist cap (gray2bin aw (chain.getLastD 0)) index + 1 < cap ∧ index' = inc cap index) (mix : Nat) :
    MayEnter aw cap chain index' (sample (bin2gray index) (bin2gray index') mix) := by
  obtain rfl | ⟨room, rfl⟩ := hmove
  · rw [sample_same]
    exact mayEnter_code hcap hi chain
  · have hs := sample_bin2gray_inc (hcap ▸ hi) mix
    rw [← hcap] at hs
    obtain hs | hs := hs <;> rw [hs]
    · exact mayEnter_code_inc hcap hi hlt ho room
    · exact mayEnter_code hcap (inc_lt (by omega) index) chain

/-! ## What the commands of the FIFO's two edges do to the indices -/

section
variable {s t : State}

/-- An edge of `wr_clk` moves the write domain's reset alone, and makes the FIFO `Live` when the domain leaves it. -/
theorem wrResetEdge_cases (s : State) :
    s.wrResetEdge = { s with wrRst := .out, fifoPhase := .live } ∨
      ∃ r, s.wrResetEdge = { s with wrRst := r } ∧ (r = .out → s.wrRst = .out) := by
  unfold State.wrResetEdge
  cases h : s.wrRst with
  | oneEdge => exact .inl rfl
  | held | noEdge | out => exact .inr ⟨_, rfl, by simp [RstSync.afterEdge]⟩

/-- An edge of `rd_clk` moves the read domain's reset alone, and makes the FIFO `Live` when the domain leaves it. -/
theorem rdResetEdge_cases (s : State) :
    s.rdResetEdge = { s with rdRst := .out, fifoPhase := .live } ∨
      ∃ r, s.rdResetEdge = { s with rdRst := r } ∧ (r = .out → s.rdRst = .out) := by
  unfold State.rdResetEdge
  cases h : s.rdRst with
  | oneEdge => exact .inl rfl
  | held | noEdge | out => exact .inr ⟨_, rfl, by simp [RstSync.afterEdge]⟩

/-- An edge of `ctr_clk` moves the counter's reset alone, and makes the counter `Live` when it leaves it. -/
theorem ctrResetEdge_cases (s : State) :
    s.ctrResetEdge = { s with ctrRst := .out, ctrPhase := .live } ∨
      ∃ r, s.ctrResetEdge = { s with ctrRst := r } ∧ (r = .out → s.ctrRst = .out) := by
  unfold State.ctrResetEdge
  cases h : s.ctrRst with
  | oneEdge => exact .inl rfl
  | held | noEdge | out => exact .inr ⟨_, rfl, by simp [RstSync.afterEdge]⟩

/-- An operation of port W leaves the read domain and `tsync` alone, and moves `head` one step on at most, and only
when the FIFO is not full (41_fifo_send.md R120 to R124). -/
def WritesAtMostOne (s t : State) : Prop :=
  SameReadRegs s t ∧ t.tsync = s.tsync ∧ (t.head = s.head ∨ s.full = false ∧ t.head = inc s.cap s.head)

/-- An operation of port R leaves the write domain and `hsync` alone, and moves `tail` one step on at most, and only
when the FIFO is not empty (42_fifo_receive.md R130 to R134). -/
def ReadsAtMostOne (s t : State) : Prop :=
  SameWriteRegs s t ∧ t.hsync = s.hsync ∧ (t.tail = s.tail ∨ s.empty = false ∧ t.tail = inc s.cap s.tail)

theorem WritesAtMostOne.of_execSend {item : Nat} (h : execSend item s = .next t) : WritesAtMostOne s t := by
  obtain ⟨-, ⟨-, rfl⟩ | ⟨hf, -, -, rfl⟩⟩ := execSend_next.1 h
  · exact ⟨⟨rfl, rfl, rfl⟩, rfl, .inl rfl⟩
  · exact ⟨⟨rfl, rfl, rfl⟩, rfl, .inr ⟨hf, rfl⟩⟩

theorem ReadsAtMostOne.of_execRecv (h : execRecv s = .next t) : ReadsAtMostOne s t := by
  obtain ⟨-, ⟨-, rfl⟩ | ⟨he, -, d, -, rfl⟩⟩ := execRecv_next.1 h
  · exact ⟨⟨rfl, rfl, rfl⟩, rfl, .inl rfl⟩
  · exact ⟨⟨rfl, rfl, rfl⟩, rfl, .inr ⟨he, rfl⟩⟩

/-- The reset release before a command touches no register that `WritesAtMostOne` speaks of. -/
theorem WritesAtMostOne.of_wrResetEdge (h : WritesAtMostOne s.wrResetEdge t) : WritesAtMostOne s t := by
  obtain he | ⟨r, he, -⟩ := wrResetEdge_cases s <;> rw [he] at h <;> exact h

theorem ReadsAtMostOne.of_rdResetEdge (h : ReadsAtMostOne s.rdResetEdge t) : ReadsAtMostOne s t := by
  obtain he | ⟨r, he, -⟩ := rdResetEdge_cases s <;> rw [he] at h <;> exact h

theorem WritesAtMostOne.of_wrCommand {l : Line} (h : wrCommand l s = .next t) : WritesAtMostOne s t := by
  apply of_wrResetEdge
  obtain ⟨-, ⟨-, -, i, -, rfl | rfl, he⟩ | ⟨-, -, -, rfl⟩⟩ := wrCommand_next h
  · cases he; exact ⟨⟨rfl, rfl, rfl⟩, rfl, .inl rfl⟩
  · exact of_execSend he
  · exact ⟨⟨rfl, rfl, rfl⟩, rfl, .inl rfl⟩

theorem ReadsAtMostOne.of_rdCommand {l : Line} (h : rdCommand l s = .next t) : ReadsAtMostOne s t := by
  apply of_rdResetEdge
  obtain ⟨-, ⟨-, -, i, -, rfl | rfl, he⟩ | ⟨-, -, -, rfl⟩⟩ := rdCommand_next h
  · cases he; exact ⟨⟨rfl, rfl, rfl⟩, rfl, .inl rfl⟩
  · exact of_execRecv he
  · exact ⟨⟨rfl, rfl, rfl⟩, rfl, .inl rfl⟩

end

/-! ## The invariant after reset (10_state.md R38 to R40, R43) -/

/-- A chain whose stages all hold the same code is in order. -/
theorem chainOrdered_replicate (aw cap n g index : Nat) : ChainOrdered aw cap (List.replicate n g) index := by
  rw [ChainOrdered, lags, List.map_replicate]
  exact List.pairwise_replicate.2 (.inr le_rfl)

theorem resetFifo_headSeen (s : State) : s.resetFifo.headSeen = 0 := by
  rw [State.headSeen, State.resetFifo_hsync, resetChain_last, gray2bin_zero]

theorem resetFifo_tailSeen (s : State) : s.resetFifo.tailSeen = 0 := by
  rw [State.tailSeen, State.resetFifo_tsync, resetChain_last, gray2bin_zero]

/-- The registers that FIFO_RESET leaves meet the FIFO's part of the invariant, whatever they held; the counter's part
is that of the state before. -/
theorem inv_resetFifo {s : State} (hp : s.params.wf) (ctr_fits : fits s.params.cw s.ctr)
    (ctr_reset : s.ctrPhase = .inReset → s.ctr = s.params.init) (ctr_live : s.ctrRst = .out → s.ctrPhase = .live)
    (ctrOut_length : s.ctrOut.length = s.params.ports) : Inv s.resetFifo where
  params_wf := hp
  slots_wf := .nil
  slots_fit := by simp
  head_lt := s.cap_pos
  tail_lt := s.cap_pos
  headG_eq := bin2gray_zero.symm
  tailG_eq := bin2gray_zero.symm
  hsync_length := List.length_replicate
  tsync_length := List.length_replicate
  hsync_lt g hg := by rw [List.eq_of_mem_replicate hg]; exact s.cap_pos
  tsync_lt g hg := by rw [List.eq_of_mem_replicate hg]; exact s.cap_pos
  hsync_ordered := chainOrdered_replicate _ _ _ _ _
  tsync_ordered := chainOrdered_replicate _ _ _ _ _
  ring := by
    have h0 : dist s.cap 0 0 = 0 := dist_self s.cap_pos
    simp [State.RingOrder, resetFifo_headSeen, resetFifo_tailSeen, h0]
  occupied i _ := by simp [dist_self s.cap_pos]
  fifo_reset _ := ⟨rfl, rfl, rfl, rfl, rfl, rfl, rfl, rfl, rfl⟩
  wr_live h := by cases h
  rd_live h := by cases h
  rdOut_fits _ h := by cases h
  ctr_fits := ctr_fits
  ctr_reset := ctr_reset
  ctr_live := ctr_live
  ctrOut_length := ctrOut_length

/-- Settles O40: FIFO_RESET leaves the state right after reset as it is. -/
theorem resetEstablishesTheInvariant : Obligations.ResetEstablishesTheInvariant := fun p hp => by
  have ⟨_, _, hinit, _, _⟩ := hp
  exact inv_resetFifo (s := State.resetOf p) hp hinit (fun _ => rfl) (fun h => by cases h) List.length_replicate

/-! ## Every step keeps the invariant -/

theorem State.busCount_fits (s : State) (v : Nat) : fits s.params.cw (s.busCount v) := Nat.mod_lt _ (Nat.two_pow_pos _)

theorem State.busItem_fits (s : State) (v : Nat) : fits s.params.dw (s.busItem v) := Nat.mod_lt _ (Nat.two_pow_pos _)

/-- A pin that goes high takes no domain out of reset by itself. -/
theorem RstSync.pinHigh_eq_out {r : RstSync} : r.pinHigh = .out ↔ r = .out := by
  cases r <;> simp [RstSync.pinHigh]

namespace Inv

variable {s t : State}

/-! Updates that operations and edges are made of. -/

theorem resetFifo (hs : Inv s) : Inv s.resetFifo :=
  inv_resetFifo hs.params_wf hs.ctr_fits hs.ctr_reset hs.ctr_live hs.ctrOut_length

/-- The FIFO may go `Live`, and its domains' resets may move, as long as a domain out of reset finds it `Live`. -/
theorem setFifoLife (hs : Inv s) {ph : Phase} {wr rd : RstSync} (hph : ph = .live ∨ ph = s.fifoPhase)
    (hwr : wr = .out → ph = .live) (hrd : rd = .out → ph = .live) :
    Inv { s with fifoPhase := ph, wrRst := wr, rdRst := rd } :=
  { hs with
    fifo_reset := fun h => by
      obtain rfl | rfl := hph
      · cases h
      · exact hs.fifo_reset h
    wr_live := hwr
    rd_live := hrd }

/-- The counter may go `Live`, and its reset may move, as long as a counter out of reset is `Live`. -/
theorem setCtrLife (hs : Inv s) {ph : Phase} {r : RstSync} (hph : ph = .live ∨ ph = s.ctrPhase)
    (hr : r = .out → ph = .live) : Inv { s with ctrPhase := ph, ctrRst := r } :=
  { hs with
    ctr_reset := fun h => by
      obtain rfl | rfl := hph
      · cases h
      · exact hs.ctr_reset h
    ctr_live := hr }

theorem wrResetEdge (hs : Inv s) : Inv s.wrResetEdge := by
  obtain he | ⟨r, he, hr⟩ := wrResetEdge_cases s <;> rw [he]
  · exact hs.setFifoLife (.inl rfl) (fun _ => rfl) (fun _ => rfl)
  · exact hs.setFifoLife (.inr rfl) (fun h => hs.wr_live (hr h)) hs.rd_live

theorem rdResetEdge (hs : Inv s) : Inv s.rdResetEdge := by
  obtain he | ⟨r, he, hr⟩ := rdResetEdge_cases s <;> rw [he]
  · exact hs.setFifoLife (.inl rfl) (fun _ => rfl) (fun _ => rfl)
  · exact hs.setFifoLife (.inr rfl) hs.wr_live (fun h => hs.rd_live (hr h))

theorem ctrResetEdge (hs : Inv s) : Inv s.ctrResetEdge := by
  obtain he | ⟨r, he, hr⟩ := ctrResetEdge_cases s <;> rw [he]
  · exact hs.setCtrLife (.inl rfl) (fun _ => rfl)
  · exact hs.setCtrLife (.inr rfl) (fun h => hs.ctr_live (hr h))

theorem ctrEdgeStart (hs : Inv s) : Inv s.ctrEdgeStart :=
  { hs.ctrResetEdge with
    ctrOut_length := by
      obtain ⟨hp, -⟩ := SameFrame.ctrEdgeStart s
      rw [hp]; exact List.length_replicate }

theorem counterNext (hs : Inv s) (hl : s.ctrPhase = .live) {c : Nat} (hc : fits s.params.cw c) (p : Nat)
    (v : Option Nat) : Inv (counterNext s p c v) := by
  cases v with
  | none => exact (hs.setCtr hl hc).setCtrOut p none
  | some x => exact ((hs.setCtr hl hc).setCtrOut p (some x)).giveAnswer _

/-! Operations and lines. -/

theorem of_execSend (hs : Inv s) {item : Nat} (h : execSend item s = .next t) : Inv t := by
  obtain ⟨hl, ⟨-, rfl⟩ | ⟨hf, -, -, rfl⟩⟩ := execSend_next.1 h
  · exact (hs.ackW false (.inr rfl)).giveAnswer _
  · exact ((hs.publishHead hl hf (s.busItem_fits item)).ackW true (.inl hl)).giveAnswer _

theorem of_execRecv (hs : Inv s) (h : execRecv s = .next t) : Inv t := by
  obtain ⟨hl, ⟨-, rfl⟩ | ⟨he, -, d, hd, rfl⟩⟩ := execRecv_next.1 h
  · exact (hs.answerR none (.inr rfl) (fun _ h => by cases h)).giveAnswer _
  · refine ((hs.publishTail hl he).answerR (some d) (.inl hl) (fun x hx => ?_)).giveAnswer _
    cases hx
    exact hs.cell_fits hd

theorem of_exec (hs : Inv s) {i : Instr} (h : exec i s = .next t) : Inv t := by
  have hn := exec_next h
  cases i with
  | send item => exact hs.of_execSend hn
  | wIdle => cases hn; exact hs.ackW false (.inr rfl)
  | recv => exact hs.of_execRecv hn
  | rIdle => cases hn; exact hs.answerR none (.inr rfl) (fun _ h => by cases h)
  | ctrNop p => obtain ⟨-, rfl⟩ := hn; exact hs.setCtrOut p none
  | get p => obtain ⟨-, hl, rfl⟩ := hn; exact hs.counterNext hl hs.ctr_fits p _
  | increment p | add p n | swap p v => obtain ⟨-, hl, rfl⟩ := hn; exact hs.counterNext hl (s.busCount_fits _) p _
  | reset p => obtain ⟨-, hl, rfl⟩ := hn; exact hs.counterNext hl (Nat.two_pow_pos _) p _
  | fifoReset => cases hn; exact hs.resetFifo
  | fifoRun => cases hn; exact hs.setFifoLife (.inl rfl) (fun _ => rfl) (fun _ => rfl)
  | ctrReset => cases hn; exact hs.resetCtr
  | ctrRun => cases hn; exact hs.setCtrLife (.inl rfl) (fun _ => rfl)
  | capacity | lenW | isEmptyW | full | lenR | isEmptyR | empty => cases hn; exact hs.giveAnswer _
  | syncH k => obtain ⟨hl, ⟨hk, hle⟩, rfl⟩ := hn; exact hs.catchUpHead hl hk hle
  | syncT k => obtain ⟨hl, ⟨hk, hle⟩, rfl⟩ := hn; exact hs.catchUpTail hl hk hle

theorem of_runLine (hs : Inv s) {l : Line} (h : runLine l s = .next t) : Inv t := by
  obtain ⟨-, i, -, he⟩ := runLine_next.1 h
  exact hs.of_exec he

theorem of_wrCommand (hs : Inv s) {l : Line} (h : wrCommand l s = .next t) : Inv t := by
  obtain ⟨-, ⟨-, -, i, -, -, he⟩ | ⟨-, -, -, rfl⟩⟩ := wrCommand_next h
  · exact hs.wrResetEdge.of_exec he
  · exact hs.wrResetEdge.ackW false (.inr rfl)

theorem of_rdCommand (hs : Inv s) {l : Line} (h : rdCommand l s = .next t) : Inv t := by
  obtain ⟨-, ⟨-, -, i, -, -, he⟩ | ⟨-, -, -, rfl⟩⟩ := rdCommand_next h
  · exact hs.rdResetEdge.of_exec he
  · exact hs.rdResetEdge.answerR none (.inr rfl) (fun _ h => by cases h)

/-! Edges: what the chains take in. -/

theorem shiftTail (hs : Inv s) {v : Nat} (hv : MayEnter s.aw s.cap s.tsync s.tail v) : Inv (s.shiftTail v) := by
  obtain ⟨hlt, hle⟩ := hv
  unfold State.shiftTail
  split
  · exact hs.shiftTsync (hs.wr_live ‹_›) hlt hle
  · exact hs

theorem shiftHead (hs : Inv s) {v : Nat} (hv : MayEnter s.aw s.cap s.hsync s.head v) : Inv (s.shiftHead v) := by
  obtain ⟨hlt, hle⟩ := hv
  unfold State.shiftHead
  split
  · exact hs.shiftHsync (hs.rd_live ‹_›) hlt hle
  · exact hs

theorem mayEnter_tailG (hs : Inv s) : MayEnter s.aw s.cap s.tsync s.tail s.tailG :=
  hs.tailG_eq ▸ mayEnter_code s.cap_eq hs.tail_lt _

theorem mayEnter_headG (hs : Inv s) : MayEnter s.aw s.cap s.hsync s.head s.headG :=
  hs.headG_eq ▸ mayEnter_code s.cap_eq hs.head_lt _

/-- Whatever `tsync` samples while port R reads at most one item may enter it. -/
theorem mayEnter_sample_tailG (hs : Inv s) (ht : Inv t) (h : ReadsAtMostOne s t) (mix : Nat) :
    MayEnter s.aw s.cap s.tsync t.tail (sample s.tailG t.tailG mix) := by
  obtain ⟨-, -, hmove⟩ := h
  rw [hs.tailG_eq, ht.tailG_eq]
  have hroom (he : s.empty = false) : s.tailLag + 1 < s.cap := by
    have := hs.visible he
    have := hs.ring'
    omega
  exact mayEnter_sample s.cap_eq hs.tail_lt hs.tsync_lt hs.tsync_ordered
    (hmove.imp_right fun ⟨he, hi⟩ => ⟨hroom he, hi⟩) mix

/-- Whatever `hsync` samples while port W writes at most one item may enter it. -/
theorem mayEnter_sample_headG (hs : Inv s) (ht : Inv t) (h : WritesAtMostOne s t) (mix : Nat) :
    MayEnter s.aw s.cap s.hsync t.head (sample s.headG t.headG mix) := by
  obtain ⟨-, -, hmove⟩ := h
  rw [hs.headG_eq, ht.headG_eq]
  have hroom (hf : s.full = false) : s.headLag + 1 < s.cap := by
    have := hs.room hf
    omega
  exact mayEnter_sample s.cap_eq hs.head_lt hs.hsync_lt hs.hsync_ordered
    (hmove.imp_right fun ⟨hf, hi⟩ => ⟨hroom hf, hi⟩) mix

theorem of_wrEdge (hs : Inv s) {l : Line} (h : wrEdge l s = .next t) : Inv t := by
  obtain ⟨u, hu, ht⟩ := andThen_next.1 h
  cases ht
  have hi := hs.of_wrCommand hu
  obtain ⟨⟨-, htailG, -⟩, -, -⟩ := WritesAtMostOne.of_wrCommand hu
  exact hi.shiftTail (htailG ▸ hi.mayEnter_tailG)

theorem of_rdEdge (hs : Inv s) {l : Line} (h : rdEdge l s = .next t) : Inv t := by
  obtain ⟨u, hu, ht⟩ := andThen_next.1 h
  cases ht
  have hi := hs.of_rdCommand hu
  obtain ⟨⟨-, hheadG, -⟩, -, -⟩ := ReadsAtMostOne.of_rdCommand hu
  exact hi.shiftHead (hheadG ▸ hi.mayEnter_headG)

/-- `tsync` samples across the read command alone, since the write command leaves `tail_g` as it is, and `hsync` across
the write command alone. -/
theorem of_bothEdges (hs : Inv s) {lw lr : Line} {hMix tMix : Nat} (h : bothEdges lw lr hMix tMix s = .next t) :
    Inv t := by
  obtain ⟨u, hu, h⟩ := andThen_next.1 h
  obtain ⟨v, hv, ht⟩ := andThen_next.1 h
  cases ht
  have hiu := hs.of_rdCommand hu
  have hiv := hiu.of_wrCommand hv
  have hr := ReadsAtMostOne.of_rdCommand hu
  have hw := WritesAtMostOne.of_wrCommand hv
  have htail := hs.mayEnter_sample_tailG hiu hr tMix
  have hhead := hiu.mayEnter_sample_headG hiv hw hMix
  obtain ⟨⟨-, hheadG, htsync⟩, -, -⟩ := hr
  obtain ⟨⟨htail', htailG, hhsync⟩, htsync', -⟩ := hw
  obtain ⟨hp, -⟩ := SameFrame.of_rdCommand hu
  obtain ⟨hp', -⟩ := SameFrame.of_wrCommand hv
  have hshift : Inv (v.shiftTail (sample s.tailG v.tailG tMix)) := hiv.shiftTail <| by
    simpa only [State.aw, State.cap, hp, hp', htsync, htsync', htail', htailG] using htail
  refine hshift.shiftHead ?_
  have hsame : MayEnter v.aw v.cap v.hsync v.head (sample s.headG v.headG hMix) := by
    simpa only [State.aw, State.cap, hp', hhsync, hheadG] using hhead
  unfold State.shiftTail
  split <;> exact hsame

theorem of_ctrEdge (hs : Inv s) {ls : List Line} (h : ctrEdge ls s = .next t) : Inv t := by
  obtain ⟨-, ⟨-, he⟩ | ⟨-, -, rfl⟩⟩ := ctrEdge_next h
  · exact eachLine_induct (fun _ _ _ hu hl => hu.of_runLine hl) hs.ctrEdgeStart he
  · exact hs.ctrEdgeStart

/-! Reset pins. -/

theorem of_fifoPins (hs : Inv s) {wr rd : Bool} (h : fifoPins wr rd s = .next t) : Inv t := by
  unfold fifoPins at h
  split at h
  · cases h; exact hs.resetFifo
  · split at h
    · cases h
    · cases h
      refine hs.setFifoLife (.inr rfl) (fun h => hs.wr_live ?_) (fun h => hs.rd_live ?_)
      · cases wr; exacts [h, RstSync.pinHigh_eq_out.1 h]
      · cases rd; exacts [h, RstSync.pinHigh_eq_out.1 h]

theorem of_ctrPin (hs : Inv s) {v : Bool} (h : ctrPin v s = .next t) : Inv t := by
  unfold ctrPin at h
  split at h <;> cases h
  · exact hs.setCtrLife (.inr rfl) (fun h => hs.ctr_live (RstSync.pinHigh_eq_out.1 h))
  · exact hs.resetCtr

theorem of_runInput (hs : Inv s) {x : Input} (h : runInput x s = .next t) : Inv t := by
  cases x with
  | line l => exact hs.of_runLine h
  | wrEdge l => exact hs.of_wrEdge h
  | rdEdge l => exact hs.of_rdEdge h
  | bothEdges lw lr hMix tMix => exact hs.of_bothEdges h
  | ctrEdge ls => exact hs.of_ctrEdge h
  | fifoPins wr rd => exact hs.of_fifoPins h
  | ctrPin v => exact hs.of_ctrPin h

end Inv

/-- Settles O41: a step takes an entry off the schedule, of which the invariant does not speak, and runs it. -/
theorem everyStepKeepsTheInvariant : Obligations.EveryStepKeepsTheInvariant := fun s t hs h => by
  obtain ⟨-, ⟨-, rfl⟩ | ⟨x, rest, -, hx⟩⟩ := step_next h
  · exact hs.consume []
  · exact (hs.consume rest).of_runInput hx

end Sys2Proof.Machine

namespace Sys2Proof.Machine

/-! ## What operations do to the FIFO's cells and registers -/

section
variable {s t u : State}

/-- No cell and no register of the FIFO part changed, its outputs and its life apart. -/
def FifoStands (s t : State) : Prop :=
  t.params = s.params ∧ SameCells s t ∧ SameWriteRegs s t ∧ SameReadRegs s t

theorem FifoStands.of_eq (hp : t.params = s.params) (hc : t.slots = s.slots) (hw : SameWriteRegs s t)
    (hr : SameReadRegs s t) : FifoStands s t := ⟨hp, fun _ => by rw [hc], hw, hr⟩

theorem FifoStands.refl (s : State) : FifoStands s s := .of_eq rfl rfl ⟨rfl, rfl, rfl⟩ ⟨rfl, rfl, rfl⟩

theorem FifoStands.trans (h : FifoStands s t) (h' : FifoStands t u) : FifoStands s u := by
  obtain ⟨hp, hc, ⟨hh, hg, ht⟩, ⟨ht', hg', hh'⟩⟩ := h
  obtain ⟨kp, kc, ⟨kh, kg, kt⟩, ⟨kt', kg', kh'⟩⟩ := h'
  exact ⟨kp.trans hp, fun i => (kc i).trans (hc i), ⟨kh.trans hh, kg.trans hg, kt.trans ht⟩,
    ⟨kt'.trans ht', kg'.trans hg', kh'.trans hh'⟩⟩

theorem FifoStands.counterNext (s : State) (p c : Nat) (v : Option Nat) : FifoStands s (counterNext s p c v) := by
  cases v <;> exact .of_eq rfl rfl ⟨rfl, rfl, rfl⟩ ⟨rfl, rfl, rfl⟩

/-- Whatever was answered from `s` to `t`, it was neither OK nor SOME. -/
def AnswersNoItem (s t : State) : Prop :=
  ∃ as, t.answers = s.answers ++ as ∧ .ok ∉ as ∧ ∀ d, .someItem d ∉ as

theorem AnswersNoItem.of_none (h : t.answers = s.answers) : AnswersNoItem s t :=
  ⟨[], by rw [h, List.append_nil], by simp⟩

theorem AnswersNoItem.of_one {a : Answer} (h : t.answers = s.answers ++ [a]) (hok : .ok ≠ a)
    (hsome : ∀ d, .someItem d ≠ a) : AnswersNoItem s t :=
  ⟨[a], h, by simpa using hok, by simpa using hsome⟩

theorem AnswersNoItem.counterNext (s : State) (p c : Nat) (v : Option Nat) :
    AnswersNoItem s (counterNext s p c v) := by
  cases v with
  | none => exact .of_none rfl
  | some x => exact .of_one (a := .value p x) rfl nofun nofun

/-- Only SEND, RECV, FIFO_RESET and the synchronizers touch the FIFO's cells and registers, and only SEND and RECV
answer of an item. -/
theorem exec_fifo {i : Instr} (h : exec i s = .next t) :
    match i with
    | .send item => execSend item s = .next t
    | .recv => execRecv s = .next t
    | .fifoReset => t = s.resetFifo
    | .syncH k => s.fifoPhase = .live ∧ (1 ≤ k ∧ k ≤ s.headLag) ∧
        t = { s with hsync := catchUp s.aw s.cap s.headSeen k s.hsync }
    | .syncT k => s.fifoPhase = .live ∧ (1 ≤ k ∧ k ≤ s.tailLag) ∧
        t = { s with tsync := catchUp s.aw s.cap s.tailSeen k s.tsync }
    | _ => FifoStands s t ∧ AnswersNoItem s t := by
  have hn := exec_next h
  cases i with
  | send | recv | fifoReset | syncH | syncT => exact hn
  | ctrNop p => obtain ⟨-, rfl⟩ := hn; exact ⟨.refl s, .of_none rfl⟩
  | get | increment | add | swap | reset =>
    obtain ⟨-, -, rfl⟩ := hn
    exact ⟨.counterNext .., .counterNext ..⟩
  | wIdle | rIdle | fifoRun | ctrReset | ctrRun => cases hn; exact ⟨.refl s, .of_none rfl⟩
  | capacity | lenW | isEmptyW | full | lenR | isEmptyR | empty =>
    cases hn
    exact ⟨.refl s, .of_one rfl nofun nofun⟩

end

/-! ## What the FIFO holds (20_memory.md R66) -/

section
variable {s t u : State}

theorem State.itemAt_congr {i : Nat} (h : t.slots.read i = s.slots.read i) : t.itemAt i = s.itemAt i := by
  unfold State.itemAt
  rw [h]

theorem State.itemAt_of_full {i d : Nat} (h : s.slots.read i = .full d) : s.itemAt i = some d := by
  unfold State.itemAt
  rw [h]

/-- The item in the cell `j` steps on from `tail`, if it is `Full`. -/
def State.itemAhead (s : State) (j : Nat) : Option Nat := s.itemAt (forward s.cap s.tail j)

theorem State.contents_eq (s : State) : s.contents = (List.range s.occupancy).filterMap s.itemAhead := rfl

/-- What is stored depends on the cells and the two indices alone. -/
theorem FifoStands.contents (h : FifoStands s t) : t.contents = s.contents := by
  obtain ⟨hp, hc, ⟨hh, -, -⟩, ⟨ht, -, -⟩⟩ := h
  simp only [State.contents, State.occupancy, State.cap, hp, hh, ht, State.itemAt_congr (hc _)]

/-- SEND steps 5 and 6 append the item (41_fifo_send.md R120): it goes where the occupied range ends. -/
theorem Inv.contents_publishHead (hs : Inv s) (hf : s.full = false) (d : Nat) :
    (s.publishHead d).contents = s.contents ++ [d] := by
  have hroom := hs.room hf
  have htot := hs.totals.1
  have hocc : (s.publishHead d).occupancy = s.occupancy + 1 :=
    dist_inc_right hs.tail_lt hs.head_lt (show s.occupancy + 1 < s.cap by omega)
  have hread (i : Nat) : (s.publishHead d).slots.read i = if i = s.head then .full d else s.slots.read i :=
    Memory.read_write hs.slots_wf s.head (.full d) i
  have hnew : (s.publishHead d).itemAhead s.occupancy = some d :=
    State.itemAt_of_full ((hread _).trans (if_pos (forward_dist hs.tail_lt hs.head_lt)))
  have hold : ∀ j ∈ List.range s.occupancy, (s.publishHead d).itemAhead j = s.itemAhead j := fun j hj => by
    have hj := List.mem_range.1 hj
    have hne : forward s.cap s.tail j ≠ s.head := fun he => hj.ne' <| by
      rw [State.occupancy, ← he, dist_forward hs.tail_lt (by omega)]
    exact State.itemAt_congr ((hread _).trans (if_neg hne))
  rw [State.contents_eq, hocc, List.range_succ, List.filterMap_append, List.filterMap_congr hold]
  simp [hnew, State.contents_eq]

/-- RECV step 4 takes the oldest item away (42_fifo_receive.md R130): the occupied range begins one cell later. -/
theorem Inv.contents_publishTail (hs : Inv s) (he : s.empty = false) {d : Nat} (hd : s.slots.read s.tail = .full d) :
    s.contents = d :: s.publishTail.contents := by
  have hvis := hs.visible he
  have htot := hs.totals.1
  have hlt : s.occupancy < s.cap := dist_lt s.cap_pos s.tail s.head
  have hocc : s.occupancy = s.publishTail.occupancy + 1 :=
    (dist_inc_left hs.tail_lt hs.head_lt (show 1 ≤ s.occupancy by omega)).symm
  have hfirst : s.itemAhead 0 = some d :=
    State.itemAt_of_full (by rw [forward, Nat.add_zero, Nat.mod_eq_of_lt hs.tail_lt, hd])
  have hrest : ∀ j ∈ List.range s.publishTail.occupancy, s.itemAhead (j + 1) = s.publishTail.itemAhead j := by
    intro j hj
    have hj := List.mem_range.1 hj
    have hcell : forward s.cap (inc s.cap s.tail) j = forward s.cap s.tail (j + 1) := by
      rw [forward, inc, Nat.mod_add_mod, forward, Nat.add_assoc, Nat.add_comm 1 j]
    have hne : forward s.cap s.tail (j + 1) ≠ s.tail := fun h => by
      have hdist := dist_forward hs.tail_lt (show j + 1 < s.cap by omega)
      rw [h, dist_self hs.tail_lt] at hdist
      omega
    rw [State.itemAhead, State.itemAhead, State.publishTail_cap, State.publishTail_tail, hcell]
    exact State.itemAt_congr (((Memory.read_write hs.slots_wf s.tail .empty _).trans (if_neg hne)).symm)
  rw [State.contents_eq, hocc, List.range_succ_eq_map, List.filterMap_cons_some hfirst, List.filterMap_map]
  exact congrArg _ (List.filterMap_congr hrest)

/-! ## Order, over one operation and over a run -/

theorem newAnswers_eq {as : List Answer} (h : t.answers = s.answers ++ as) : newAnswers s t = as := by
  rw [newAnswers, h, List.drop_left]

theorem AnswersNoItem.sentBy (h : AnswersNoItem s t) (i : Instr) : sentBy i s t = [] := by
  obtain ⟨as, h, hok, -⟩ := h
  unfold Machine.sentBy
  split
  case h_1 item hn =>
    rw [newAnswers_eq h] at hn
    simp [hn] at hok
  case h_2 => rfl

theorem AnswersNoItem.receivedBy (h : AnswersNoItem s t) : receivedBy s t = [] := by
  obtain ⟨as, h, -, hsome⟩ := h
  rw [Machine.receivedBy, newAnswers_eq h, List.filterMap_eq_nil_iff]
  rintro (_ | _ | d | _ | _ | _) hd
  case someItem => exact absurd hd (hsome d)
  all_goals rfl

theorem sentBy_ok {item : Nat} (h : t.answers = s.answers ++ [.ok]) :
    sentBy (.send item) s t = [s.busItem item] := by
  unfold sentBy
  rw [newAnswers_eq h]

theorem receivedBy_ok (h : t.answers = s.answers ++ [.ok]) : receivedBy s t = [] := by
  rw [receivedBy, newAnswers_eq h]
  rfl

theorem sentBy_recv (s t : State) : sentBy .recv s t = [] := rfl

theorem receivedBy_someItem {d : Nat} (h : t.answers = s.answers ++ [.someItem d]) : receivedBy s t = [d] := by
  rw [receivedBy, newAnswers_eq h]
  rfl

/-- What `i` sent went behind what was stored, and what it received came from the front (20_memory.md R66). -/
def KeepsOrder (i : Instr) (s t : State) : Prop := s.contents ++ sentBy i s t = receivedBy s t ++ t.contents

theorem KeepsOrder.of_noItem {i : Instr} (hc : t.contents = s.contents) (ha : AnswersNoItem s t) :
    KeepsOrder i s t := by
  rw [KeepsOrder, ha.sentBy, ha.receivedBy, hc, List.append_nil, List.nil_append]

/-- Every operation but FIFO_RESET keeps the order. -/
theorem Inv.keepsOrder (hs : Inv s) {i : Instr} (hi : i ≠ .fifoReset) (h : exec i s = .next t) :
    KeepsOrder i s t := by
  have hn := exec_fifo h
  cases i with
  | fifoReset => exact absurd rfl hi
  | send item =>
    obtain ⟨-, ⟨-, rfl⟩ | ⟨hf, -, -, rfl⟩⟩ := execSend_next.1 hn
    · exact .of_noItem rfl (.of_one rfl nofun nofun)
    · rw [KeepsOrder, sentBy_ok rfl, receivedBy_ok rfl]
      exact (hs.contents_publishHead hf _).symm
  | recv =>
    obtain ⟨-, ⟨-, rfl⟩ | ⟨he, -, d, hd, rfl⟩⟩ := execRecv_next.1 hn
    · exact .of_noItem rfl (.of_one rfl nofun nofun)
    · rw [KeepsOrder, sentBy_recv, receivedBy_someItem rfl, List.append_nil]
      exact hs.contents_publishTail he hd
  | syncH k | syncT k =>
    obtain ⟨-, -, rfl⟩ := hn
    exact .of_noItem rfl (.of_none rfl)
  | _ =>
    obtain ⟨hst, ha⟩ := hn
    exact .of_noItem hst.contents ha

/-- A run goes on after its first operation from the state that one leaves. -/
theorem traffic_cons {i : Instr} {is : List Instr} {sent received : List Nat} :
    traffic (i :: is) s = some (u, sent, received) ↔
      ∃ t sent' received', exec i s = .next t ∧ traffic is t = some (u, sent', received') ∧
        sent = sentBy i s t ++ sent' ∧ received = receivedBy s t ++ received' := by
  rw [traffic]
  cases exec i s with
  | next t =>
    cases htr : traffic is t with
    | none => simp [htr]
    | some r =>
      obtain ⟨u', sent', received'⟩ := r
      simp [htr, and_assoc, eq_comm]
  | fault f => simp
  | refused r => simp

/-- Settles O49: each operation keeps the order, and a run chains them. -/
theorem itemsComeOutInTheOrderSent : Obligations.ItemsComeOutInTheOrderSent := by
  intro is
  induction is with
  | nil =>
    intro s u sent received _ _ h
    cases h
    exact List.append_nil _
  | cons i is ih =>
    intro s u sent received hs hr h
    obtain ⟨t, sent, received, he, ht, rfl, rfl⟩ := traffic_cons.1 h
    obtain ⟨hi, his⟩ := not_or.1 (List.mem_cons.not.1 hr)
    have hfirst : s.contents ++ sentBy i s t = _ := hs.keepsOrder (Ne.symm hi) he
    calc s.contents ++ (sentBy i s t ++ sent)
        = receivedBy s t ++ (t.contents ++ sent) := by
          rw [← List.append_assoc, hfirst, List.append_assoc]
      _ = receivedBy s t ++ received ++ u.contents := by
          rw [ih t u _ _ (hs.of_exec he) his ht, List.append_assoc]

end

/-! ## Coherence (20_memory.md R64, R65): what a step may do to the seen indices -/

/-- After a shift of two or more stages the last one is an old stage. -/
theorem shiftIn_getLastD_mem {v : Nat} {chain : List Nat} (h : 2 ≤ chain.length) :
    (shiftIn v chain).getLastD 0 ∈ chain := by
  cases chain with
  | nil => simp at h
  | cons a l =>
    have hne : (a :: l).take l.length ≠ [] := by
      rw [List.length_cons] at h
      rw [← List.length_pos_iff, List.length_take, List.length_cons]
      omega
    have hlast : (shiftIn v (a :: l)).getLastD 0 = ((a :: l).take l.length).getLastD 0 := by
      rw [shiftIn, List.length_cons, List.take_succ_cons, List.getLastD_cons, List.getLastD_eq_getLast?,
        List.getLastD_eq_getLast?, List.getLast?_eq_some_getLast hne]
      rfl
    rw [hlast]
    exact List.mem_of_mem_take (getLastD_mem hne)

/-- So its last stage is no further behind the source, whatever came in. -/
theorem ChainOrdered.shiftIn_last {aw cap index v : Nat} {chain : List Nat} (h : ChainOrdered aw cap chain index)
    (h2 : 2 ≤ chain.length) :
    dist cap (gray2bin aw ((Machine.shiftIn v chain).getLastD 0)) index ≤
      dist cap (gray2bin aw (chain.getLastD 0)) index :=
  h.le_last (shiftIn_getLastD_mem h2)

/-- A step of `k` forward within a distance shortens it by `k`. -/
theorem dist_forward_add {cap a b k : Nat} (ha : a < cap) (hb : b < cap) (hk : k ≤ dist cap a b) :
    k + dist cap (forward cap a k) b = dist cap a b := by
  have hlt := dist_lt (show 0 < cap by omega) a b
  have hd := dist_forward ha (k := k) (by omega)
  have hs := dist_split ha (forward_lt (by omega) a k) hb (by omega)
  omega

theorem dist_right_inj {cap a b c : Nat} (ha : a < cap) (hb : b < cap) (hc : c < cap)
    (h : dist cap a c = dist cap b c) : a = b := by
  have hs := dist_split_right hb ha hc h.le
  exact ((dist_eq_zero_iff hb ha).1 (by omega)).symm

section
variable {s t u v : State}

theorem shiftTail_cases (s : State) (g : Nat) :
    s.shiftTail g = s ∨ s.shiftTail g = { s with tsync := shiftIn g s.tsync } := by
  unfold State.shiftTail
  split
  · exact .inr rfl
  · exact .inl rfl

theorem shiftHead_cases (s : State) (g : Nat) :
    s.shiftHead g = s ∨ s.shiftHead g = { s with hsync := shiftIn g s.hsync } := by
  unfold State.shiftHead
  split
  · exact .inr rfl
  · exact .inl rfl

/-- What a step of a live FIFO may do to the indices (20_memory.md R64, R65): neither seen index gets further behind
the index it carries than standing still would have left it, and `tail` moves one step on at most, and only when there
is an item to see. -/
structure Advances (s t : State) : Prop where
  params_eq : t.params = s.params
  headSeen_le : dist s.cap t.headSeen t.head ≤ dist s.cap s.headSeen t.head
  tailSeen_le : dist s.cap t.tailSeen t.tail ≤ dist s.cap s.tailSeen t.tail
  tail_move : t.tail = s.tail ∨ s.empty = false ∧ t.tail = inc s.cap s.tail

namespace Advances

theorem cap_eq (h : Advances s t) : t.cap = s.cap := by rw [State.cap, State.cap, h.params_eq]

/-- Where neither chain moves, neither seen index does. -/
theorem of_chains (hp : t.params = s.params) (hh : t.hsync = s.hsync) (ht : t.tsync = s.tsync)
    (hm : t.tail = s.tail ∨ s.empty = false ∧ t.tail = inc s.cap s.tail) : Advances s t where
  params_eq := hp
  headSeen_le := by simp only [State.headSeen, State.aw, hp, hh, le_refl]
  tailSeen_le := by simp only [State.tailSeen, State.aw, hp, ht, le_refl]
  tail_move := hm

theorem of_stands (h : FifoStands s t) : Advances s t := by
  obtain ⟨hp, -, ⟨-, -, ht⟩, ⟨hm, -, hh⟩⟩ := h
  exact of_chains hp hh ht (.inl hm)

theorem of_reads (hp : t.params = s.params) (h : ReadsAtMostOne s t) : Advances s t := by
  obtain ⟨⟨-, -, ht⟩, hh, hm⟩ := h
  exact of_chains hp hh ht hm

theorem of_writes (hp : t.params = s.params) (h : WritesAtMostOne s t) : Advances s t := by
  obtain ⟨⟨hm, -, hh⟩, ht, -⟩ := h
  exact of_chains hp hh ht (.inl hm)

end Advances

namespace Inv

theorem two_le_hsync (hs : Inv s) : 2 ≤ s.hsync.length := by
  obtain ⟨-, -, -, h2, -⟩ := hs.params_wf
  rwa [hs.hsync_length]

theorem two_le_tsync (hs : Inv s) : 2 ≤ s.tsync.length := by
  obtain ⟨-, -, -, h2, -⟩ := hs.params_wf
  rwa [hs.tsync_length]

/-- SYNC_H of draw `k` moves `head_seen` `k` steps on (43_fifo_sync.md R140). -/
theorem headSeen_catchUp (hs : Inv s) {k : Nat} (hk : 1 ≤ k) :
    ({ s with hsync := catchUp s.aw s.cap s.headSeen k s.hsync } : State).headSeen = forward s.cap s.headSeen k :=
  catchUp_last s.cap_eq hs.hsync_ne hk (getLastD_lt s.cap_pos hs.hsync_lt)

/-- SYNC_T of draw `k` moves `tail_seen` `k` steps on (43_fifo_sync.md R141). -/
theorem tailSeen_catchUp (hs : Inv s) {k : Nat} (hk : 1 ≤ k) :
    ({ s with tsync := catchUp s.aw s.cap s.tailSeen k s.tsync } : State).tailSeen = forward s.cap s.tailSeen k :=
  catchUp_last s.cap_eq hs.tsync_ne hk (getLastD_lt s.cap_pos hs.tsync_lt)

/-- An operation that leaves the FIFO live advances it. -/
theorem advances_exec (hs : Inv s) {i : Instr} (h : exec i s = .next t) (hl : t.fifoPhase = .live) :
    Advances s t := by
  have hn := exec_fifo h
  obtain ⟨hp, -⟩ := SameFrame.of_exec h
  cases i with
  | fifoReset => cases hn; cases hl
  | send item => exact .of_writes hp (.of_execSend hn)
  | recv => exact .of_reads hp (.of_execRecv hn)
  | syncH k =>
    obtain ⟨-, ⟨hk, hle⟩, rfl⟩ := hn
    refine ⟨rfl, ?_, le_rfl, .inl rfl⟩
    rw [hs.headSeen_catchUp hk]
    exact (Nat.le_add_left _ _).trans_eq (dist_forward_add hs.headSeen_lt hs.head_lt hle)
  | syncT k =>
    obtain ⟨-, ⟨hk, hle⟩, rfl⟩ := hn
    refine ⟨rfl, le_rfl, ?_, .inl rfl⟩
    rw [hs.tailSeen_catchUp hk]
    exact (Nat.le_add_left _ _).trans_eq (dist_forward_add hs.tailSeen_lt hs.tail_lt hle)
  | _ => exact .of_stands hn.1

end Inv

namespace Advances

/-- The chain's shift after a command: `tail_seen` gets no further behind. -/
theorem shiftTail (h : Advances s v) (hv : Inv v) (g : Nat) : Advances s (v.shiftTail g) := by
  obtain he | he := shiftTail_cases v g <;> rw [he]
  · exact h
  · have hlast := hv.tsync_ordered.shiftIn_last hv.two_le_tsync (v := g)
    rw [h.cap_eq] at hlast
    exact { h with tailSeen_le := hlast.trans h.tailSeen_le }

/-- The same for `head_seen`; the other chain may have shifted already. -/
theorem shiftHead (h : Advances s v) (ho : ChainOrdered v.aw v.cap v.hsync v.head) (h2 : 2 ≤ v.hsync.length)
    (g : Nat) : Advances s (v.shiftHead g) := by
  obtain he | he := shiftHead_cases v g <;> rw [he]
  · exact h
  · have hlast := ho.shiftIn_last h2 (v := g)
    rw [h.cap_eq] at hlast
    exact { h with headSeen_le := hlast.trans h.headSeen_le }

/-- A command of port R and then one of port W. -/
theorem of_commands (hp : u.params = s.params) (hr : ReadsAtMostOne s u) (hp' : v.params = u.params)
    (hw : WritesAtMostOne u v) : Advances s v := by
  obtain ⟨⟨-, -, ht⟩, hh, hm⟩ := hr
  obtain ⟨⟨hm', -, hh'⟩, ht', -⟩ := hw
  exact of_chains (hp'.trans hp) (hh'.trans hh) (ht'.trans ht) (by rwa [hm'])

end Advances

/-- A counter edge touches nothing of the FIFO. -/
theorem FifoStands.ctrEdgeStart (s : State) : FifoStands s s.ctrEdgeStart := by
  unfold State.ctrEdgeStart
  obtain he | ⟨r, he, -⟩ := ctrResetEdge_cases s <;> rw [he] <;> exact .refl s

theorem FifoStands.of_counterLine {l : Line} {p : Nat} (hc : counterPort l = some p) (h : runLine l s = .next t) :
    FifoStands s t := by
  obtain ⟨-, i, hd, he⟩ := runLine_next.1 h
  have hp : l.offer.port = .k p := by
    unfold counterPort at hc
    split at hc
    · cases hc; rfl
    · cases hc
  obtain rfl | rfl | rfl | rfl | rfl | rfl := decode_k hp hd <;> exact (exec_fifo he).1

/-- Every line of a counter edge is offered on a counter port. -/
theorem ctrEdge_counterPort {ls : List Line} (h : ctrEdge ls s = .next t) {l : Line} (hl : l ∈ ls) :
    ∃ p, counterPort l = some p := by
  unfold ctrEdge at h
  split at h
  · exact Option.isSome_iff_exists.1 (List.all_eq_true.1 ‹_› l hl)
  · cases h

theorem FifoStands.of_eachLine {ls : List Line} (hp : ∀ l ∈ ls, ∃ p, counterPort l = some p)
    (h : eachLine runLine ls s = .next t) : FifoStands s t := by
  induction ls generalizing s with
  | nil => cases h; exact .refl _
  | cons l ls ih =>
    obtain ⟨u, hu, ht⟩ := andThen_next.1 h
    obtain ⟨p, hc⟩ := hp l List.mem_cons_self
    exact (of_counterLine hc hu).trans (ih (fun k hk => hp k (List.mem_cons_of_mem l hk)) ht)

theorem FifoStands.of_ctrEdge {ls : List Line} (h : ctrEdge ls s = .next t) : FifoStands s t := by
  obtain ⟨-, ⟨-, he⟩ | ⟨-, -, rfl⟩⟩ := ctrEdge_next h
  · exact (ctrEdgeStart s).trans (of_eachLine (fun _ => ctrEdge_counterPort h) he)
  · exact ctrEdgeStart s

/-- The pins of the FIFO that leave it live touch no register. -/
theorem FifoStands.of_fifoPins {wr rd : Bool} (h : fifoPins wr rd s = .next t) (hl : t.fifoPhase = .live) :
    FifoStands s t := by
  unfold fifoPins at h
  split at h
  · cases h; cases hl
  · split at h
    · cases h
    · cases h; exact .refl s

theorem FifoStands.of_ctrPin {b : Bool} (h : ctrPin b s = .next t) : FifoStands s t := by
  unfold ctrPin at h
  split at h <;> cases h <;> exact .refl s

namespace Inv

theorem advances_bothEdges (hs : Inv s) {lw lr : Line} {hMix tMix : Nat}
    (h : bothEdges lw lr hMix tMix s = .next t) : Advances s t := by
  obtain ⟨u, hu, h⟩ := andThen_next.1 h
  obtain ⟨v, hv, ht⟩ := andThen_next.1 h
  cases ht
  obtain ⟨hp, -⟩ := SameFrame.of_rdCommand hu
  obtain ⟨hp', -⟩ := SameFrame.of_wrCommand hv
  have hi := (hs.of_rdCommand hu).of_wrCommand hv
  have ha := (Advances.of_commands hp (.of_rdCommand hu) hp' (.of_wrCommand hv)).shiftTail hi
    (sample s.tailG v.tailG tMix)
  obtain he | he := shiftTail_cases v (sample s.tailG v.tailG tMix) <;> rw [he] at ha ⊢ <;>
    exact ha.shiftHead hi.hsync_ordered hi.two_le_hsync _

/-- Whatever is offered, a step that leaves the FIFO live advances it. -/
theorem advances_runInput (hs : Inv s) {x : Input} (h : runInput x s = .next t) (hl : t.fifoPhase = .live) :
    Advances s t := by
  cases x with
  | line l =>
    obtain ⟨-, i, -, he⟩ := runLine_next.1 h
    exact hs.advances_exec he hl
  | wrEdge l =>
    obtain ⟨u, hu, ht⟩ := andThen_next.1 h
    cases ht
    obtain ⟨hp, -⟩ := SameFrame.of_wrCommand hu
    exact (Advances.of_writes hp (.of_wrCommand hu)).shiftTail (hs.of_wrCommand hu) _
  | rdEdge l =>
    obtain ⟨u, hu, ht⟩ := andThen_next.1 h
    cases ht
    obtain ⟨hp, -⟩ := SameFrame.of_rdCommand hu
    have hi := hs.of_rdCommand hu
    exact (Advances.of_reads hp (.of_rdCommand hu)).shiftHead hi.hsync_ordered hi.two_le_hsync _
  | bothEdges lw lr hMix tMix => exact hs.advances_bothEdges h
  | ctrEdge ls => exact .of_stands (.of_ctrEdge h)
  | fifoPins wr rd => exact .of_stands (.of_fifoPins h hl)
  | ctrPin b => exact .of_stands (.of_ctrPin h)

theorem advances_step (hs : Inv s) (h : step s = .next t) (hl : t.fifoPhase = .live) : Advances s t := by
  obtain ⟨-, ⟨-, rfl⟩ | ⟨x, rest, -, hx⟩⟩ := step_next h
  · exact .of_stands (.refl s)
  · exact { (hs.consume rest).advances_runInput hx hl with }

end Inv

/-- While `head` stands, `head_seen` gets no further behind it, and closer when it moves. -/
theorem Advances.headLag (h : Advances s t) (hs : Inv s) (ht : Inv t) (hh : t.head = s.head) :
    t.headLag ≤ s.headLag ∧ (t.headSeen ≠ s.headSeen → t.headLag < s.headLag) := by
  have hle := h.headSeen_le
  have hseen := ht.headSeen_lt
  rw [h.cap_eq] at hseen
  rw [hh] at hle
  rw [State.headLag, State.headLag, h.cap_eq, hh]
  exact ⟨hle, fun hne => hle.lt_of_ne fun he => hne (dist_right_inj hseen hs.headSeen_lt hs.head_lt he)⟩

/-- While `tail` stands, `tail_seen` gets no further behind it, and closer when it moves. -/
theorem Advances.tailLag (h : Advances s t) (hs : Inv s) (ht : Inv t) (hh : t.tail = s.tail) :
    t.tailLag ≤ s.tailLag ∧ (t.tailSeen ≠ s.tailSeen → t.tailLag < s.tailLag) := by
  have hle := h.tailSeen_le
  have hseen := ht.tailSeen_lt
  rw [h.cap_eq] at hseen
  rw [hh] at hle
  rw [State.tailLag, State.tailLag, h.cap_eq, hh]
  exact ⟨hle, fun hne => hle.lt_of_ne fun he => hne (dist_right_inj hseen hs.tailSeen_lt hs.tail_lt he)⟩

/-- Settles O46: a seen index that ends no further behind its index than where it stood lies between the two. -/
theorem seenIndicesNeverStepBack : Obligations.SeenIndicesNeverStepBack := fun s t hs h hl => by
  have ha := hs.advances_step h hl
  have ht := everyStepKeepsTheInvariant s t hs h
  have hcap := ha.cap_eq
  have hhead := dist_split_right hs.headSeen_lt (hcap ▸ ht.headSeen_lt) (hcap ▸ ht.head_lt) ha.headSeen_le
  have htail := dist_split_right hs.tailSeen_lt (hcap ▸ ht.tailSeen_lt) (hcap ▸ ht.tail_lt) ha.tailSeen_le
  omega

/-- Settles O44: with an item to see, `tail` is behind `head`. -/
theorem sidesNeverTouchTheSameCell : Obligations.SidesNeverTouchTheSameCell := fun s hs _ he heq => by
  have hvis := hs.visible he
  have htot := hs.totals.1
  have hocc : s.occupancy = 0 := by rw [State.occupancy, heq, dist_self hs.tail_lt]
  omega
end

/-! ## Endless runs (20_memory.md R68; 43_fifo_sync.md R142) -/

/-- A measure that never grows cannot shrink again and again. -/
theorem not_endless_descent {f : Nat → Nat} {n : Nat} (hle : ∀ m, n ≤ m → f (m + 1) ≤ f m)
    (hlt : ∀ m, n ≤ m → ∃ j, m ≤ j ∧ f (j + 1) < f j) : False := by
  have hanti (m : Nat) (hm : n ≤ m) (j : Nat) (hj : m ≤ j) : f j ≤ f m := by
    induction j, hj using Nat.le_induction with
    | base => exact le_rfl
    | succ j hj ih => exact (hle j (hm.trans hj)).trans ih
  have hbound (b : Nat) : ∀ m, n ≤ m → b ≤ f m := by
    induction b with
    | zero => exact fun m _ => Nat.zero_le _
    | succ b ih =>
      intro m hm
      obtain ⟨j, hj, hdrop⟩ := hlt m hm
      have h1 := hanti m hm j hj
      have h2 := ih (j + 1) (by omega)
      omega
  have hn := hbound (f n + 1) n le_rfl
  omega

/-- A seen index that is moved again and again while it differs, each move shortening a lag that never grows, catches
up. -/
theorem exists_seen_eq {seen index lag : Nat → Nat} {n : Nat}
    (hlag : ∀ m, n ≤ m → seen (m + 1) ≠ index (m + 1) →
      lag (m + 1) ≤ lag m ∧ (seen (m + 1) ≠ seen m → lag (m + 1) < lag m))
    (hfair : ∀ m, n ≤ m → (∀ k, m ≤ k → seen k ≠ index k) → ∃ j, m ≤ j ∧ seen (j + 1) ≠ seen j) :
    ∃ m, n ≤ m ∧ seen m = index m := by
  by_contra! hne
  refine not_endless_descent (fun m hm => (hlag m hm (hne _ (by omega))).1) fun m hm => ?_
  obtain ⟨j, hj, hmove⟩ := hfair m hm fun k hk => hne k (hm.trans hk)
  exact ⟨j, hj, (hlag j (hm.trans hj) (hne _ (by omega))).2 hmove⟩

section
variable {env : Nat → Option Input} {run : Nat → State} {s : State}

namespace Inv

theorem offered (hs : Inv s) (x : Option Input) : Inv (s.offered x) := { hs with }

/-- In reset both indices and both seen indices are 0. -/
theorem indices_inReset (hs : Inv s) (hp : s.fifoPhase = .inReset) :
    s.head = 0 ∧ s.tail = 0 ∧ s.headSeen = 0 ∧ s.tailSeen = 0 := by
  obtain ⟨-, hh, ht, -, -, hc, hc', -⟩ := hs.fifo_reset hp
  exact ⟨hh, ht, by rw [State.headSeen, hc, resetChain_last, gray2bin_zero],
    by rw [State.tailSeen, hc', resetChain_last, gray2bin_zero]⟩

/-- So a FIFO whose indices do not all agree is live. -/
theorem live_of_ne (hs : Inv s) (h : s.headSeen ≠ s.head ∨ s.tailSeen ≠ s.tail ∨ s.tail ≠ s.head) :
    s.fifoPhase = .live := by
  cases hp : s.fifoPhase with
  | live => rfl
  | inReset =>
    obtain ⟨hh, ht, hhs, hts⟩ := hs.indices_inReset hp
    omega

end Inv

namespace IsRun

theorem inv (hr : IsRun env run) (h0 : Inv (run 0)) (m : Nat) : Inv (run m) := by
  induction m with
  | zero => exact h0
  | succ m ih => exact everyStepKeepsTheInvariant _ _ (ih.offered (env m)) (hr m)

theorem advances (hr : IsRun env run) (h0 : Inv (run 0)) {m : Nat} (hl : (run (m + 1)).fifoPhase = .live) :
    Advances (run m) (run (m + 1)) :=
  { ((hr.inv h0 m).offered (env m)).advances_step (hr m) hl with }

end IsRun

/-- Settles O57: while `head_seen` is not `head` the FIFO is live, so SYNC_H is enabled and fairness moves it. -/
theorem headBecomesVisible : Obligations.HeadBecomesVisible := by
  intro env run n hr h0 hfair hhead
  have hi := hr.inv h0
  refine exists_seen_eq (lag := fun m => (run m).headLag) (fun m hm hne => ?_) fun m _ hne => ?_
  · exact (hr.advances h0 ((hi _).live_of_ne (.inl hne))).headLag (hi m) (hi _)
      ((hhead _ (by omega)).trans (hhead m hm).symm)
  · exact hfair m fun k hk => ⟨(hi k).live_of_ne (.inl (hne k hk)), hne k hk⟩

/-- Settles O58: while `tail_seen` is not `tail` the FIFO is live, so SYNC_T is enabled and fairness moves it. -/
theorem tailBecomesVisible : Obligations.TailBecomesVisible := by
  intro env run n hr h0 hfair htail
  have hi := hr.inv h0
  refine exists_seen_eq (lag := fun m => (run m).tailLag) (fun m hm hne => ?_) fun m _ hne => ?_
  · exact (hr.advances h0 ((hi _).live_of_ne (.inr (.inl hne)))).tailLag (hi m) (hi _)
      ((htail _ (by omega)).trans (htail m hm).symm)
  · exact hfair m fun k hk => ⟨(hi k).live_of_ne (.inr (.inl (hne k hk))), hne k hk⟩

/-! ## A consumer that retries (95_test_vectors.md S4) -/

variable {t u : State}

/-- A RECV that finds an item takes it. -/
theorem tail_of_execRecv (h : execRecv s = .next t) (he : s.empty = false) : t.tail = inc s.cap s.tail := by
  obtain ⟨-, ⟨hn, -⟩ | ⟨-, -, d, -, rfl⟩⟩ := execRecv_next.1 h
  · rw [he] at hn; cases hn
  · rfl

theorem tail_of_runLine_recv (h : runLine (lineOf .recv) s = .next t) (he : s.empty = false) :
    t.tail = inc s.cap s.tail := by
  obtain ⟨-, i, hd, hx⟩ := runLine_next.1 h
  cases hd
  exact tail_of_execRecv hx he

/-- So does the command of a read edge out of reset. -/
theorem tail_of_rdCommand_recv (h : rdCommand (lineOf .recv) s = .next t) (ho : s.rdRst = .out)
    (he : s.empty = false) : t.tail = inc s.cap s.tail := by
  obtain ⟨-, ⟨-, -, i, hd, -, hx⟩ | ⟨hne, -⟩⟩ := rdCommand_next h
  · cases hd
    rw [rdResetEdge_out ho] at hx
    exact tail_of_execRecv hx he
  · rw [rdResetEdge_out ho] at hne
    exact absurd ho hne

theorem shiftTail_tail (s : State) (g : Nat) : (s.shiftTail g).tail = s.tail := by
  obtain h | h := shiftTail_cases s g <;> rw [h]

theorem shiftHead_tail (s : State) (g : Nat) : (s.shiftHead g).tail = s.tail := by
  obtain h | h := shiftHead_cases s g <;> rw [h]

theorem tail_of_rdEdge_recv (h : rdEdge (lineOf .recv) s = .next t) (ho : s.rdRst = .out) (he : s.empty = false) :
    t.tail = inc s.cap s.tail := by
  obtain ⟨u, hu, ht⟩ := andThen_next.1 h
  cases ht
  rw [shiftHead_tail, tail_of_rdCommand_recv hu ho he]

theorem tail_of_bothEdges_recv {lw : Line} {hMix tMix : Nat} (h : bothEdges lw (lineOf .recv) hMix tMix s = .next t)
    (ho : s.rdRst = .out) (he : s.empty = false) : t.tail = inc s.cap s.tail := by
  obtain ⟨u, hu, h⟩ := andThen_next.1 h
  obtain ⟨v, hv, ht⟩ := andThen_next.1 h
  cases ht
  obtain ⟨⟨htail, -, -⟩, -, -⟩ := WritesAtMostOne.of_wrCommand hv
  rw [shiftHead_tail, shiftTail_tail, htail, tail_of_rdCommand_recv hu ho he]

/-- A step under an offer runs it. -/
theorem runInput_of_step_offered {x : Input} (h : step (s.offered (some x)) = .next t) :
    runInput x ((s.offered (some x)).consume []) = .next t := by
  obtain ⟨-, ⟨hin, -⟩ | ⟨y, rest, hin, hx⟩⟩ := step_next h
  · cases hin
  · cases hin
    exact hx

/-- A step that takes a RECV takes the item it finds. -/
theorem IsRun.tail_of_recvTaken (hr : IsRun env run) {j : Nat} (h : RecvTaken env run j)
    (he : (run j).empty = false) : (run (j + 1)).tail = inc (run j).cap (run j).tail := by
  have hstep := hr j
  obtain h | ⟨ho, h | ⟨lw, hMix, tMix, h⟩⟩ := h <;> rw [h] at hstep
  all_goals have hx := runInput_of_step_offered hstep
  · exact (tail_of_runLine_recv hx he :)
  · exact (tail_of_rdEdge_recv hx ho he :)
  · exact (tail_of_bothEdges_recv hx ho he :)

/-- While `head` stands, taking an item lowers the occupancy by one. -/
theorem Advances.occupancy_taken (h : Advances s t) (hs : Inv s) (hh : t.head = s.head) (he : s.empty = false)
    (ht : t.tail = inc s.cap s.tail) : t.occupancy + 1 = s.occupancy := by
  have hvis := hs.visible he
  have htot := hs.totals.1
  rw [State.occupancy, h.cap_eq, ht, hh]
  exact dist_inc_left hs.tail_lt hs.head_lt (show 1 ≤ s.occupancy by omega)

/-- While `head` stands, the occupancy never grows. -/
theorem Advances.occupancy_le (h : Advances s t) (hs : Inv s) (hh : t.head = s.head) :
    t.occupancy ≤ s.occupancy := by
  obtain ht | ⟨he, ht⟩ := h.tail_move
  · rw [State.occupancy, State.occupancy, h.cap_eq, ht, hh]
  · have htaken := h.occupancy_taken hs hh he ht
    omega

/-- Settles O60: otherwise `head_seen` comes to stand at `head` ahead of `tail`, so every RECV takes an item, and each
one lowers an occupancy that never grows. -/
theorem retryingConsumerDrainsTheFifo : Obligations.RetryingConsumerDrainsTheFifo := by
  intro env run n hr h0 hfair hrecv hhead
  by_contra! hne
  have hi := hr.inv h0
  have htail (m : Nat) (hm : n ≤ m) : (run m).tail ≠ (run m).head :=
    (dist_eq_zero_iff (hi m).tail_lt (hi m).head_lt).not.1 (hne m hm)
  have hadv (m : Nat) (hm : n ≤ m) : Advances (run m) (run (m + 1)) :=
    hr.advances h0 ((hi (m + 1)).live_of_ne (.inr (.inr (htail (m + 1) (by omega)))))
  have hstand (m : Nat) (hm : n ≤ m) : (run (m + 1)).head = (run m).head :=
    (hhead (m + 1) (by omega)).trans (hhead m hm).symm
  obtain ⟨k, hk, hseen⟩ := headBecomesVisible env run n hr h0 hfair hhead
  have hcaught (m : Nat) (hm : k ≤ m) : (run m).headSeen = (run m).head := by
    induction m, hm using Nat.le_induction with
    | base => exact hseen
    | succ m hm ih =>
      have hlag := ((hadv m (by omega)).headLag (hi m) (hi (m + 1)) (hstand m (by omega))).1
      rw [State.headLag, State.headLag, ih, dist_self (hi m).head_lt] at hlag
      exact (dist_eq_zero_iff (hi (m + 1)).headSeen_lt (hi (m + 1)).head_lt).1 (by omega)
  refine not_endless_descent (n := k) (f := fun m => (run m).occupancy)
    (fun m hm => (hadv m (by omega)).occupancy_le (hi m) (hstand m (by omega))) fun m hm => ?_
  obtain ⟨j, hj, htaken⟩ := hrecv m
  have he : (run j).empty = false := by
    rw [State.empty, hcaught j (by omega)]
    exact beq_false_of_ne (htail j (by omega)).symm
  have hdrop := (hadv j (by omega)).occupancy_taken (hi j) (hstand j (by omega)) he (hr.tail_of_recvTaken htaken he)
  exact ⟨j, hj, by omega⟩

end

/-! ## The round trip with no overlap (95_test_vectors.md S2) -/

section
variable {s t u : State}

/-- Two runs one after the other. -/
theorem traffic_append {is js : List Instr} {a b c d : List Nat} (h : traffic is s = some (t, a, b))
    (h' : traffic js t = some (u, c, d)) : traffic (is ++ js) s = some (u, a ++ c, b ++ d) := by
  induction is generalizing s a b with
  | nil => cases h; exact h'
  | cons i is ih =>
    obtain ⟨v, a', b', hv, ht, rfl, rfl⟩ := traffic_cons.1 h
    exact traffic_cons.2 ⟨v, _, _, hv, ih ht, List.append_assoc .., List.append_assoc ..⟩

/-- A first operation that answers of no item leaves the traffic to the rest. -/
theorem traffic_cons_of_noItem {i : Instr} {is : List Instr} {a b : List Nat} (hx : exec i s = .next t)
    (ha : AnswersNoItem s t) (h : traffic is t = some (u, a, b)) : traffic (i :: is) s = some (u, a, b) :=
  traffic_cons.2 ⟨t, a, b, hx, h, by rw [ha.sentBy, List.nil_append], by rw [ha.receivedBy, List.nil_append]⟩

namespace Inv

/-- What an accepted SEND leaves: one step less room, and an item more that is not seen yet. -/
theorem exec_send_ok (hs : Inv s) (hl : s.fifoPhase = .live) (hf : s.full = false) (item : Nat) :
    ∃ t, exec (.send item) s = .next t ∧ t.answers = s.answers ++ [.ok] ∧ t.fifoPhase = .live ∧
      t.wrLen = s.wrLen + 1 ∧ t.rdLen = s.rdLen ∧ t.headLag = s.headLag + 1 := by
  have hroom := hs.room hf
  have htot := hs.totals.2
  exact ⟨_, execSend_next.2 ⟨hl, .inr ⟨hf, hs.head_lt, hs.head_cell, rfl⟩⟩, rfl, hl,
    dist_inc_right hs.tailSeen_lt hs.head_lt (show s.wrLen + 1 < s.cap by omega), rfl,
    dist_inc_right hs.headSeen_lt hs.head_lt (show s.headLag + 1 < s.cap by omega)⟩

/-- What a RECV that finds an item leaves: a visible item less. -/
theorem exec_recv_some (hs : Inv s) (hl : s.fifoPhase = .live) (he : s.empty = false) :
    ∃ d t, exec .recv s = .next t ∧ t.answers = s.answers ++ [.someItem d] ∧ t.fifoPhase = .live ∧
      t.rdLen + 1 = s.rdLen := by
  obtain ⟨d, hd⟩ := hs.tail_cell he
  exact ⟨d, _, execRecv_next.2 ⟨hl, .inr ⟨he, hs.tail_lt, d, hd, rfl⟩⟩, rfl, hl,
    dist_inc_left hs.tail_lt hs.headSeen_lt (hs.visible he)⟩

/-- What SYNC_H of draw `k` leaves: `k` more visible items. -/
theorem exec_syncH (hs : Inv s) (hl : s.fifoPhase = .live) {k : Nat} (hk : 1 ≤ k) (hle : k ≤ s.headLag) :
    ∃ t, exec (.syncH k) s = .next t ∧ t.answers = s.answers ∧ t.fifoPhase = .live ∧ t.rdLen = s.rdLen + k := by
  refine ⟨_, syncStep_next.2 ⟨hl, ⟨hk, hle⟩, rfl⟩, rfl, hl, ?_⟩
  have hring := hs.ring'
  have hpos := s.cap_pos
  have hmove : dist s.cap s.headSeen (forward s.cap s.headSeen k) = k := dist_forward hs.headSeen_lt (by omega)
  have hadd := dist_add hs.tail_lt hs.headSeen_lt (forward_lt hpos s.headSeen k)
    (by rw [hmove]; exact (show s.rdLen + k < s.cap by omega))
  rw [hmove] at hadd
  rw [State.rdLen, hs.headSeen_catchUp hk]
  exact hadd

/-- As many SENDs as there is room for are all accepted, and leave their items unseen. -/
theorem traffic_sends {items : List Nat} (hs : Inv s) (hl : s.fifoPhase = .live)
    (hroom : s.wrLen + items.length + 1 ≤ s.cap) (hfit : ∀ d ∈ items, fits s.params.dw d) :
    ∃ u, traffic (items.map .send) s = some (u, items, []) ∧ Inv u ∧ u.fifoPhase = .live ∧
      u.rdLen = s.rdLen ∧ u.headLag = s.headLag + items.length := by
  induction items generalizing s with
  | nil => exact ⟨s, rfl, hs, hl, rfl, rfl⟩
  | cons d items ih =>
    rw [List.length_cons] at hroom
    have hf : s.full = false := Bool.eq_false_iff.2 (hs.full_iff.not.2 (by omega))
    obtain ⟨t, hx, ha, htl, hwr, hrd, hlag⟩ := hs.exec_send_ok hl hf d
    obtain ⟨hp, -⟩ := SameFrame.of_exec hx
    have hcap : t.cap = s.cap := by rw [State.cap, State.cap, hp]
    obtain ⟨u, htr, hu, hul, hrd', hlag'⟩ := ih (hs.of_exec hx) htl (by omega) fun x hx => by
      rw [hp]
      exact hfit x (List.mem_cons_of_mem d hx)
    refine ⟨u, traffic_cons.2 ⟨t, items, [], hx, htr, ?_, ?_⟩, hu, hul, by omega, ?_⟩
    · have hd : s.busItem d = d := Nat.mod_eq_of_lt (hfit d List.mem_cons_self)
      rw [sentBy_ok ha, hd, List.singleton_append]
    · rw [receivedBy_ok ha, List.nil_append]
    · rw [List.length_cons]
      omega

/-- As many RECVs as there are visible items each take one, and the FIFO looks empty. -/
theorem traffic_recvs {n : Nat} (hs : Inv s) (hl : s.fifoPhase = .live) (hn : s.rdLen = n) :
    ∃ u received, traffic (List.replicate n .recv) s = some (u, [], received) ∧ received.length = n ∧
      u.fifoPhase = .live ∧ u.empty = true := by
  induction n generalizing s with
  | zero => exact ⟨s, [], rfl, rfl, hl, hs.empty_iff.2 hn⟩
  | succ n ih =>
    have he : s.empty = false := Bool.eq_false_iff.2 (hs.empty_iff.not.2 (by omega))
    obtain ⟨d, t, hx, ha, htl, hrd⟩ := hs.exec_recv_some hl he
    obtain ⟨u, received, htr, hlen, hul, hue⟩ := ih (hs.of_exec hx) htl (by omega)
    refine ⟨u, d :: received, traffic_cons.2 ⟨t, [], received, hx, htr, rfl, ?_⟩, ?_, hul, hue⟩
    · rw [receivedBy_someItem ha, List.singleton_append]
    · rw [List.length_cons, hlen]

theorem outOfReset (hs : Inv s) : Inv s.outOfReset :=
  (hs.setFifoLife (.inl rfl) (fun _ => rfl) (fun _ => rfl)).setCtrLife (.inl rfl) (fun _ => rfl)

end Inv

/-- Gone live right after reset, the FIFO has nothing stored, and both sides see that. -/
theorem outOfReset_resetOf_lens {p : Params} (hp : p.wf) :
    (State.resetOf p).outOfReset.wrLen = 0 ∧ (State.resetOf p).outOfReset.rdLen = 0 ∧
      (State.resetOf p).outOfReset.headLag = 0 ∧ (State.resetOf p).outOfReset.contents = [] := by
  obtain ⟨hh, ht, hhs, hts⟩ := (resetEstablishesTheInvariant p hp).indices_inReset rfl
  have hzero : dist (capOf p.req) 0 0 = 0 := dist_self (capOf_pos _)
  have hocc : (State.resetOf p).outOfReset.occupancy = 0 := (congrArg₂ (dist _) ht hh).trans hzero
  exact ⟨(congrArg₂ (dist _) hts hh).trans hzero, (congrArg₂ (dist _) ht hhs).trans hzero,
    (congrArg₂ (dist _) hhs hh).trans hzero, by rw [State.contents_eq, hocc, List.range_zero, List.filterMap_nil]⟩

/-- Settles O51: the SENDs leave all items unseen, SYNC_H makes all visible, the RECVs take as many, and by the order of
the FIFO they are the items sent. -/
theorem sendSyncReceiveRoundTrip : Obligations.SendSyncReceiveRoundTrip := by
  intro p items hp hne hroom hfit
  have hs := (resetEstablishesTheInvariant p hp).outOfReset
  obtain ⟨hwr, hrd, hlag, hc⟩ := outOfReset_resetOf_lens hp
  have hpos := List.length_pos_iff.2 hne
  obtain ⟨u, hsends, hu, hul, hurd, hulag⟩ := hs.traffic_sends (items := items) rfl
    (by rw [hwr, Nat.zero_add]; exact hroom) hfit
  obtain ⟨v, hsync, ha, hvl, hvrd⟩ := hu.exec_syncH hul hpos (by omega)
  obtain ⟨w, received, hrecvs, hlen, hwl, hwe⟩ :=
    (hu.of_exec hsync).traffic_recvs (n := items.length) hvl (by omega)
  have hall := traffic_append hsends (traffic_cons_of_noItem hsync (.of_none ha) hrecvs)
  rw [List.append_nil, List.nil_append] at hall
  have horder := itemsComeOutInTheOrderSent _ _ _ _ _ hs (by simp) hall
  rw [hc, List.nil_append, ← List.append_nil items] at horder
  obtain ⟨rfl, -⟩ := List.append_inj horder hlen.symm
  exact ⟨w, _, hall, execRecv_next.2 ⟨hwl, .inl ⟨hwe, rfl⟩⟩, rfl⟩

end

end Sys2Proof.Machine

namespace Sys2Proof.Machine

/-! ## The encoder and the decoder (30_encoding.md R80 to R99) -/

/-- Operand and port come back too, not only the row of the table (30_encoding.md R91, R96). -/
@[simp] theorem decode_encode (i : Instr) : decode (encode i) = .ok i := by
  cases i <;> rfl

theorem encode_cmd_lt (i : Instr) : (encode i).cmd < 2 ^ (encode i).port.width := by
  cases i <;> simp [encode, Port.width]

/-- Settles O1: a command word is checked against its row of the table, and against the width of its port's format. -/
theorem decodeInvertsEncode : Obligations.DecodeInvertsEncode := fun i => ⟨decode_encode i, encode_cmd_lt i⟩

theorem decodeNoBits_ok {cmd : Nat} {i j : Instr} : decodeNoBits cmd i = .ok j ↔ cmd = 0 ∧ i = j := by
  unfold decodeNoBits
  split <;> simp [*]

/-- Port and command word fix the row of the table, but that CAPACITY stands on two ports (44_fifo_status.md R160). -/
theorem word_of_decode_ok {o : Offer} {i : Instr} (h : decode o = .ok i) :
    o.cmd = (encode i).cmd ∧ (o.port = (encode i).port ∨ (i = .capacity ∧ o.port = .sr .capacity)) := by
  obtain ⟨port, cmd, bus⟩ := o
  cases port with
  | w => match cmd, h with
    | 0, rfl | 1, rfl => exact ⟨rfl, .inl rfl⟩
  | r => match cmd, h with
    | 0, rfl | 1, rfl => exact ⟨rfl, .inl rfl⟩
  | k p => match cmd, h with
    | 0, rfl | 1, rfl | 2, rfl | 3, rfl | 4, rfl | 5, rfl => exact ⟨rfl, .inl rfl⟩
    | _ + 8, h => cases h
  | hf => match cmd, h with
    | 0, rfl | 3, rfl => exact ⟨rfl, .inl rfl⟩
  | hk => match cmd, h with
    | 0, rfl | 1, rfl => exact ⟨rfl, .inl rfl⟩
  | sw out =>
    obtain ⟨rfl, rfl⟩ := decodeNoBits_ok.1 h
    cases out <;> exact ⟨rfl, .inl rfl⟩
  | sr out =>
    obtain ⟨rfl, rfl⟩ := decodeNoBits_ok.1 h
    cases out with
    | capacity => exact ⟨rfl, .inr ⟨rfl, rfl⟩⟩
    | rdLen | rdIsEmpty | rdEmpty => exact ⟨rfl, .inl rfl⟩
  | xh | xt =>
    obtain ⟨rfl, rfl⟩ := decodeNoBits_ok.1 h
    exact ⟨rfl, .inl rfl⟩

/-- Settles O2: an offer with the port, the word and the operand of `i` is the encoding of `i`; what is left is CAPACITY
read on port R. -/
theorem eachWordHasOneMeaning : Obligations.EachWordHasOneMeaning := by
  intro o i h
  obtain ⟨hcmd, hport⟩ := word_of_decode_ok h
  refine ⟨hcmd, hport, ?_⟩
  rw [hcmd]
  rcases hport with hport | ⟨rfl, hport⟩ <;> rw [hport]
  · exact decode_encode i
  · rfl

theorem decode_w_wide {n : Nat} (hn : 2 ≤ n) (d : Nat) : decode ⟨.w, n, d⟩ = .error .notOfFormat := by
  obtain ⟨m, rfl⟩ := Nat.exists_eq_add_of_le' hn
  rfl

theorem decode_r_wide {n : Nat} (hn : 2 ≤ n) (d : Nat) : decode ⟨.r, n, d⟩ = .error .notOfFormat := by
  obtain ⟨m, rfl⟩ := Nat.exists_eq_add_of_le' hn
  rfl

/-- Settles O3: the decoder's own rows, and beyond them the words that are wider than one bit. -/
theorem specWordsDecode : Obligations.SpecWordsDecode :=
  ⟨fun _ => ⟨rfl, rfl⟩, fun _ => ⟨rfl, rfl⟩, fun _ d hn => ⟨decode_w_wide hn d, decode_r_wide hn d⟩,
    fun _ _ => ⟨rfl, rfl, rfl, rfl, rfl, rfl⟩, fun _ => ⟨rfl, rfl⟩, fun _ => ⟨rfl, rfl⟩⟩

/-! ## The cell format (30_encoding.md R88) -/

theorem Cell.ofBits_bits_empty (dw free : Nat) : Cell.ofBits dw (Cell.empty.bits dw free) = .empty := by
  have hvalid : (free % 2 ^ dw).testBit dw = false := Nat.testBit_lt_two_pow (Nat.mod_lt _ (Nat.two_pow_pos dw))
  simp [Cell.bits, Cell.ofBits, hvalid]

theorem Cell.ofBits_bits_full {dw d : Nat} (free : Nat) (hd : fits dw d) :
    Cell.ofBits dw ((Cell.full d).bits dw free) = .full d := by
  have hvalid : (2 ^ dw + d).testBit dw = true := by
    rw [Nat.testBit_two_pow_add_eq, Nat.testBit_lt_two_pow hd, Bool.not_false]
  simp [Cell.bits, Cell.ofBits, Nat.mod_eq_of_lt hd, hvalid]

theorem Cell.bits_lt (dw free : Nat) (c : Cell) : c.bits dw free < 2 ^ (dw + 1) := by
  have hdata (v : Nat) : v % 2 ^ dw < 2 ^ dw := Nat.mod_lt v (Nat.two_pow_pos dw)
  rw [Nat.pow_succ]
  cases c with
  | empty => have := hdata free; simp only [Cell.bits]; omega
  | full d => have := hdata d; simp only [Cell.bits]; omega

/-- Settles O39: bit DW of the bits is the `valid` bit, since the data bits of either kind of cell lie below it. -/
theorem cellFormatIsFaithful : Obligations.CellFormatIsFaithful := by
  intro dw free c hfit
  refine ⟨?_, Cell.bits_lt dw free c⟩
  cases c with
  | empty => exact Cell.ofBits_bits_empty dw free
  | full d => exact Cell.ofBits_bits_full free (hfit d rfl)

/-! ## Steps (10_state.md R28) -/

/-- A state with no fault recorded runs the next entry of its schedule. -/
theorem step_of_input {s : State} {x : Input} {rest : List Input} (hf : s.faulted = []) (hx : s.input = x :: rest) :
    step s = runInput x (s.consume rest) := by
  simp [step, hf, hx]

/-- Settles O5: the step runs the line, and the line runs what its word decodes to. -/
theorem stepRunsDecodedInstruction : Obligations.StepRunsDecodedInstruction := fun s _ rest _ hf hx ha hd =>
  (step_of_input hf hx).trans (runLine_eq ha hd (s.consume rest))

section

variable {s t : State} {l : Line} {i : Instr} {p : Nat} {r : Refusal}

/-! ## What is refused in every state (30_encoding.md R86, R97) -/

theorem lineOperation_error {e : DecodeError} (ha : l.agent = l.offer.port.driver) (hd : decode l.offer = .error e) :
    lineOperation l = .error (refusalOf e) := by
  simp [lineOperation, roleRefusal, ha, hd]

theorem runLine_of_error (h : lineOperation l = .error r) (s : State) : runLine l s = .refused r := by
  simp [runLine, h]

theorem ignoreLine_of_error (h : lineOperation l = .error r) (s : State) : ignoreLine l s = .refused r := by
  simp [ignoreLine, h]

theorem counterPort_of_port (h : l.offer.port = .k p) : counterPort l = some p := by
  obtain ⟨a, port, cmd, bus⟩ := l
  cases h
  rfl

/-- An edge with one command asks it of `runLine` or `ignoreLine`, as the counter's reset stands; what both refuse, the
edge refuses. -/
theorem ctrEdge_singleton_refused (hl : l.offer.port = .k p) (hrun : runLine l s.ctrEdgeStart = .refused r)
    (hignore : ignoreLine l s.ctrEdgeStart = .refused r) : ctrEdge [l] s = .refused r := by
  simp [ctrEdge, counterPort_of_port hl, eachLine, hrun, hignore, andThen]

theorem ctrEdge_singleton_of_error (hl : l.offer.port = .k p) (h : lineOperation l = .error r) (s : State) :
    ctrEdge [l] s = .refused r :=
  ctrEdge_singleton_refused hl (runLine_of_error h _) (ignoreLine_of_error h _)

/-- Every command of a counter edge that completes is a word of the table, in reset too. -/
theorem decode_of_ctrEdge_next {ls : List Line} (h : ctrEdge ls s = .next t) (hl : l ∈ ls) :
    ∃ i, decode l.offer = .ok i := by
  obtain ⟨-, ⟨-, he⟩ | ⟨-, he, -⟩⟩ := ctrEdge_next h
  · obtain ⟨u, v, hrun⟩ := eachLine_next_line he hl
    obtain ⟨-, i, hd, -⟩ := runLine_next.1 hrun
    exact ⟨i, hd⟩
  · obtain ⟨u, v, hignore⟩ := eachLine_next_line he hl
    obtain ⟨-, hd, -⟩ := ignoreLine_next.1 hignore
    exact hd

theorem decode_k_reserved {cmd : Nat} (hcmd : cmd = 0b110 ∨ cmd = 0b111) (p d : Nat) :
    decode ⟨.k p, cmd, d⟩ = .error .reservedCounterOp := by
  rcases hcmd with rfl | rfl <;> rfl

/-! ## Counter ports that do not exist (30_encoding.md R86) -/

theorem exec_noSuchCounterPort (hi : (encode i).port = .k p) (hp : s.params.ports ≤ p) :
    exec i s = .refused .noSuchCounterPort := by
  cases i with
  | ctrNop q | get q | increment q | add q n | swap q v | reset q => cases hi; exact if_neg (Nat.not_lt.2 hp)
  | _ => cases hi

theorem lineOperation_lineOf (i : Instr) : lineOperation (lineOf i) = .ok i :=
  lineOperation_ok.2 ⟨rfl, decode_encode i⟩

theorem ignoreLine_noSuchCounterPort (hi : (encode i).port = .k p) (hp : s.params.ports ≤ p) :
    ignoreLine (lineOf i) s = .refused .noSuchCounterPort := by
  simp [ignoreLine, lineOperation_lineOf, counterPort_of_port (l := lineOf i) hi, Nat.not_lt.2 hp]

theorem ctrEdge_noSuchCounterPort (hi : (encode i).port = .k p) (hp : s.params.ports ≤ p) :
    ctrEdge [lineOf i] s = .refused .noSuchCounterPort := by
  obtain ⟨hparams, -⟩ := SameFrame.ctrEdgeStart s
  have hp' : s.ctrEdgeStart.params.ports ≤ p := hparams ▸ hp
  have hrun := runLine_eq (l := lineOf i) rfl (decode_encode i) s.ctrEdgeStart
  exact ctrEdge_singleton_refused (l := lineOf i) hi (hrun.trans (exec_noSuchCounterPort hi hp'))
    (ignoreLine_noSuchCounterPort hi hp')

end

/-- Settles O4: a reserved code is no word of the table, which every line and every counter edge asks for first. -/
theorem reservedCodesAreRefused : Obligations.ReservedCodesAreRefused := by
  refine ⟨fun s i d => ?_, fun s t ls a i cmd d hcmd hl h => ?_⟩
  · have hk (cmd : Nat) (hcmd : cmd = 0b110 ∨ cmd = 0b111) :
        lineOperation ⟨.k i, ⟨.k i, cmd, d⟩⟩ = .error .reservedCounterOp :=
      lineOperation_error (e := .reservedCounterOp) rfl (decode_k_reserved hcmd i d)
    have h6 := hk 0b110 (.inl rfl)
    have h7 := hk 0b111 (.inr rfl)
    exact ⟨runLine_of_error h6 s, runLine_of_error h7 s,
      runLine_of_error (lineOperation_error (e := .partialReset) rfl rfl) s,
      runLine_of_error (lineOperation_error (e := .partialReset) rfl rfl) s,
      ctrEdge_singleton_of_error rfl h6 s, ctrEdge_singleton_of_error rfl h7 s⟩
  · obtain ⟨j, hd⟩ := decode_of_ctrEdge_next h hl
    rw [decode_k_reserved hcmd] at hd
    cases hd

/-- Settles O27: all six operations stand on port `p`, whose number every one of them and the edge check. -/
theorem counterPortsBeyondNpAreRefused : Obligations.CounterPortsBeyondNpAreRefused := by
  intro s p hp i hi
  have hport : (encode i).port = .k p := by
    obtain rfl | rfl | rfl | rfl | ⟨n, rfl⟩ | ⟨v, rfl⟩ := hi <;> rfl
  exact ⟨exec_noSuchCounterPort hport hp, ctrEdge_noSuchCounterPort hport hp⟩

end Sys2Proof.Machine

namespace Sys2Proof.Machine

/-! ## Construction (40_fifo_construct.md R111, R113) -/

section
variable {s : State}

/-- With one cell ring order leaves no room: the write side counts at most `CAP - 1` items, which is what fills it. -/
theorem Inv.full_of_cap_one (hs : Inv s) (hcap : s.cap = 1) : s.full = true := by
  have hring := hs.ring'
  have hwrLen := hs.totals.2
  exact hs.full_iff.2 (by omega)

/-- With one cell ring order leaves no item to see. -/
theorem Inv.empty_of_cap_one (hs : Inv s) (hcap : s.cap = 1) : s.empty = true := by
  have hring := hs.ring'
  exact hs.empty_iff.2 (by omega)

end

/-- Settles O47: with one cell both flags are set, and each operation takes its refusing branch. -/
theorem capacityOneAlwaysRefuses : Obligations.CapacityOneAlwaysRefuses := fun _ _ hs hl hcap =>
  ⟨⟨_, execSend_next.2 ⟨hl, .inl ⟨hs.full_of_cap_one hcap, rfl⟩⟩, rfl⟩,
    ⟨_, execRecv_next.2 ⟨hl, .inl ⟨hs.empty_of_cap_one hcap, rfl⟩⟩, rfl⟩⟩

/-- Settles O14: each operation writes its part's phase and reset alone, so that every other field is as it was. -/
theorem runOperationsOnlyGoLive : Obligations.RunOperationsOnlyGoLive := by
  refine ⟨fun s => ?fifoRun, fun s => ?ctrRun⟩
  case fifoRun =>
    have hx : exec .fifoRun s = .next { s with fifoPhase := .live, wrRst := .out, rdRst := .out } := rfl
    exact ⟨_, hx, rfl, fun _ => rfl, ⟨rfl, rfl, rfl⟩, ⟨rfl, rfl, rfl⟩, rfl, rfl, ⟨rfl, rfl, rfl, rfl⟩,
      .of_exec hx, rfl⟩
  case ctrRun =>
    have hx : exec .ctrRun s = .next { s with ctrPhase := .live, ctrRst := .out } := rfl
    have hfifo : SameFifo s { s with ctrPhase := .live, ctrRst := .out } :=
      ⟨fun _ => rfl, ⟨rfl, rfl, rfl⟩, ⟨rfl, rfl, rfl⟩, ⟨rfl, rfl, rfl⟩, rfl, rfl⟩
    exact ⟨_, hx, rfl, rfl, rfl, hfifo, .of_exec hx, rfl⟩

end Sys2Proof.Machine

namespace Sys2Proof.Machine

/-! ## No step faults (20_memory.md R55; 41_fifo_send.md R126; 42_fifo_receive.md R133) -/

/-- Where every line keeps `P`, and none faults in a state with `P`, several lines do not fault. -/
theorem eachLine_ne_fault {f : Line → State → Host.Outcome State Fault Refusal} {P : State → Prop} {e : Fault}
    (hkeep : ∀ l s t, P s → f l s = .next t → P t) (hne : ∀ l s, P s → f l s ≠ .fault e) {ls : List Line}
    {s : State} (hs : P s) : eachLine f ls s ≠ .fault e := by
  induction ls generalizing s with
  | nil => nofun
  | cons l ls ih =>
    intro h
    obtain h | ⟨u, hu, h⟩ := andThen_fault.1 h
    · exact hne l s hs h
    · exact ih (hkeep l s u hs hu) h

theorem fifoPins_ne_fault {wr rd : Bool} {s : State} {f : Fault} : fifoPins wr rd s ≠ .fault f := by
  unfold fifoPins execFifoReset
  split
  · nofun
  · split <;> nofun

theorem ctrPin_ne_fault {v : Bool} {s : State} {f : Fault} : ctrPin v s ≠ .fault f := by
  unfold ctrPin execCtrReset
  split <;> nofun

namespace Inv

variable {s : State} {f : Fault}

/-- Cell `head` exists and is `Empty`. -/
theorem execSend_ne_fault (hs : Inv s) (item : Nat) : execSend item s ≠ .fault f := fun h => by
  obtain ⟨-, -, hlt | hc⟩ := execSend_fault h
  · exact hlt hs.head_lt
  · exact hc hs.head_cell

/-- Cell `tail` exists, and is `Full` when the FIFO does not look empty. -/
theorem execRecv_ne_fault (hs : Inv s) : execRecv s ≠ .fault f := fun h => by
  obtain ⟨-, he, hlt | hc⟩ := execRecv_fault h
  · exact hlt hs.tail_lt
  · obtain ⟨d, hd⟩ := hs.tail_cell he
    rw [hd] at hc
    cases hc

theorem exec_ne_fault (hs : Inv s) (i : Instr) : exec i s ≠ .fault f := fun h => by
  obtain ⟨item, -, h⟩ | ⟨-, h⟩ := exec_fault h
  · exact hs.execSend_ne_fault item h
  · exact hs.execRecv_ne_fault h

theorem runLine_ne_fault (hs : Inv s) (l : Line) : runLine l s ≠ .fault f := fun h => by
  obtain ⟨i, -, h⟩ := runLine_fault h
  exact hs.exec_ne_fault i h

theorem wrCommand_ne_fault (hs : Inv s) (l : Line) : wrCommand l s ≠ .fault f := by
  unfold wrCommand
  split
  · split
    · exact hs.wrResetEdge.runLine_ne_fault l
    · exact ignoreLine_fault
  · nofun

theorem rdCommand_ne_fault (hs : Inv s) (l : Line) : rdCommand l s ≠ .fault f := by
  unfold rdCommand
  split
  · split
    · exact hs.rdResetEdge.runLine_ne_fault l
    · exact ignoreLine_fault
  · nofun

theorem wrEdge_ne_fault (hs : Inv s) (l : Line) : wrEdge l s ≠ .fault f := fun h => by
  obtain h | ⟨u, -, h⟩ := andThen_fault.1 h
  · exact hs.wrCommand_ne_fault l h
  · cases h

theorem rdEdge_ne_fault (hs : Inv s) (l : Line) : rdEdge l s ≠ .fault f := fun h => by
  obtain h | ⟨u, -, h⟩ := andThen_fault.1 h
  · exact hs.rdCommand_ne_fault l h
  · cases h

/-- The write command finds the invariant again, since the read command before it keeps it. -/
theorem bothEdges_ne_fault (hs : Inv s) (lw lr : Line) (hMix tMix : Nat) :
    bothEdges lw lr hMix tMix s ≠ .fault f := fun h => by
  obtain h | ⟨u, hu, h⟩ := andThen_fault.1 h
  · exact hs.rdCommand_ne_fault lr h
  · obtain h | ⟨v, -, h⟩ := andThen_fault.1 h
    · exact (hs.of_rdCommand hu).wrCommand_ne_fault lw h
    · cases h

theorem ctrEdge_ne_fault (hs : Inv s) (ls : List Line) : ctrEdge ls s ≠ .fault f := by
  unfold ctrEdge
  split
  · split
    · split
      · exact eachLine_ne_fault (fun _ _ _ hu h => hu.of_runLine h) (fun l _ hu => hu.runLine_ne_fault l)
          hs.ctrEdgeStart
      · exact eachLine_ne_fault (P := fun _ => True) (fun _ _ _ _ _ => trivial) (fun _ _ _ => ignoreLine_fault)
          trivial
    · nofun
  · nofun

theorem runInput_ne_fault (hs : Inv s) (x : Input) : runInput x s ≠ .fault f := by
  cases x with
  | line l => exact hs.runLine_ne_fault l
  | wrEdge l => exact hs.wrEdge_ne_fault l
  | rdEdge l => exact hs.rdEdge_ne_fault l
  | bothEdges lw lr hMix tMix => exact hs.bothEdges_ne_fault lw lr hMix tMix
  | ctrEdge ls => exact hs.ctrEdge_ne_fault ls
  | fifoPins wr rd => exact fifoPins_ne_fault
  | ctrPin v => exact ctrPin_ne_fault

end Inv

/-- Settles O42: a fault of a step is one recorded before, of which there is none, or one of the entry it runs. -/
theorem noStepFaults : Obligations.NoStepFaults := fun s f hs hf h => by
  obtain hmem | ⟨x, rest, -, h⟩ := step_fault h
  · rw [hf] at hmem
    cases hmem
  · exact (hs.consume rest).runInput_ne_fault x h

/-! ## SEND on a full FIFO, and the SENDs that fill one (41_fifo_send.md R120 to R122, R125) -/

section
variable {s t u : State}

/-- On the bus an item of DW bits arrives whole (30_encoding.md R81). -/
theorem State.busItem_of_fits {d : Nat} (hd : fits s.params.dw d) : s.busItem d = d := Nat.mod_eq_of_lt hd

/-- A SEND on a full FIFO gives the item back. -/
theorem execSend_full (hl : s.fifoPhase = .live) (hf : s.full = true) {item : Nat} (hfit : fits s.params.dw item) :
    execSend item s = .next ((s.ackW false).giveAnswer (.fullItem item)) :=
  execSend_next.2 ⟨hl, .inl ⟨hf, by rw [State.busItem_of_fits hfit]⟩⟩

/-- A run of operations keeps the frame. -/
theorem SameFrame.of_traffic {is : List Instr} {a b : List Nat} (h : traffic is s = some (u, a, b)) :
    SameFrame s u := by
  induction is generalizing s a b with
  | nil => cases h; exact .refl _
  | cons i is ih =>
    obtain ⟨t, a', b', hx, ht, -, -⟩ := traffic_cons.1 h
    exact (of_exec hx).trans (ih ht)

/-- With `CAP - 1` items that the read side has not seen yet, the FIFO is full. -/
theorem Inv.full_of_headLag (hs : Inv s) (hlag : s.headLag + 1 = s.cap) : s.full = true := by
  have hring := hs.ring'
  have hwrLen := hs.totals.2
  exact hs.full_iff.2 (by omega)

end

/-- Settles O19: the refusing branch of SEND writes `wr_ack` and the answer alone. -/
theorem sendOnFullChangesNothing : Obligations.SendOnFullChangesNothing := fun _ _ hl hf hfit =>
  ⟨_, execSend_full hl hf hfit, rfl, rfl, fun _ => rfl, ⟨rfl, rfl, rfl⟩, ⟨rfl, rfl, rfl⟩, ⟨rfl, rfl, rfl⟩, rfl, rfl,
    rfl, ⟨rfl, rfl, rfl, rfl⟩, ⟨rfl, rfl, rfl, rfl⟩⟩

/-- Settles O50: the SENDs are all accepted and leave `CAP - 1` items unseen, and by the order of the FIFO what is
stored is what was sent. -/
theorem capacityMinusOneSendsThenFull : Obligations.CapacityMinusOneSendsThenFull := by
  intro p items item hp hlen hfits hfit
  have hs := (resetEstablishesTheInvariant p hp).outOfReset
  obtain ⟨hwr, -, hlag, hc⟩ := outOfReset_resetOf_lens hp
  obtain ⟨u, hsends, hu, hul, -, hulag⟩ := hs.traffic_sends (items := items) rfl
    (by rw [hwr, Nat.zero_add]; exact hlen.le) hfits
  obtain ⟨hparams : u.params = p, -⟩ := SameFrame.of_traffic hsends
  have hcontents := itemsComeOutInTheOrderSent _ _ _ _ _ hs (by simp) hsends
  rw [hc, List.nil_append, List.nil_append] at hcontents
  have hfull : u.full = true := hu.full_of_headLag (by rw [hulag, hlag, State.cap, hparams, Nat.zero_add, hlen])
  exact ⟨u, _, hsends, hcontents.symm, execSend_full hul hfull (hparams ▸ hfit), rfl, hcontents.symm⟩

/-! ## SEND that is accepted (41_fifo_send.md R120, R122) -/

/-- An array in any form reads back what is stored in an `Empty` cell, and every other cell as before. -/
theorem Memory.read_insert_of_empty {m : Memory} {i : Nat} (h : Memory.read m i = .empty) (d j : Nat) :
    Memory.read (Memory.insert m i d) j = if j = i then .full d else Memory.read m j := by
  induction m with
  | nil => simp [Memory.insert, read_cons, eq_comm]
  | cons x m ih =>
    obtain ⟨a, e⟩ := x
    rw [read_cons] at h
    have hai : a ≠ i := fun ha => by rw [if_pos ha] at h; cases h
    rw [if_neg hai] at h
    unfold Memory.insert
    split
    · simp only [read_cons, eq_comm]
    · rw [if_neg hai.symm, read_cons, read_cons, ih h]
      split
      · rw [if_neg (by omega)]
      · rfl

/-- Settles O20: the accepting branch of SEND writes cell `head`, `head` with its Gray copy, `wr_ack` and the answer
alone. -/
theorem sendStoresAndPublishes : Obligations.SendStoresAndPublishes := by
  intro s item hl hf hlt hc hfit
  have hread := Memory.read_insert_of_empty hc item
  have hx : exec (.send item) s = .next (((s.publishHead item).ackW true).giveAnswer .ok) :=
    execSend_next.2 ⟨hl, .inr ⟨hf, hlt, hc, by rw [State.busItem_of_fits hfit]⟩⟩
  exact ⟨_, hx, rfl, rfl, (hread _).trans (if_pos rfl), fun j hj => (hread j).trans (if_neg hj), rfl, rfl, rfl,
    beq_iff_eq, rfl, ⟨rfl, rfl, rfl⟩, ⟨rfl, rfl, rfl⟩, rfl, ⟨rfl, rfl, rfl, rfl⟩, .of_exec hx⟩

/-! ## Accesses that cannot happen (60_exceptions.md R204) -/

section
variable {s : State}

theorem execSend_slotOverwrite (hl : s.fifoPhase = .live) (hf : s.full = false) (hlt : s.head < s.cap) {d : Nat}
    (hc : s.slots.read s.head = .full d) (item : Nat) : execSend item s = .fault .slotOverwrite := by
  simp [execSend, whileFifoLive_live hl, hf, withCell_eq hlt, hc]

theorem execRecv_slotEmptyRead (hl : s.fifoPhase = .live) (he : s.empty = false) (hlt : s.tail < s.cap)
    (hc : s.slots.read s.tail = .empty) : execRecv s = .fault .slotEmptyRead := by
  simp [execRecv, whileFifoLive_live hl, he, withCell_eq hlt, hc]

end

/-- Settles O21: each operation, past its flag, asks its cell. -/
theorem impossibleAccessesFault : Obligations.ImpossibleAccessesFault :=
  ⟨fun _ item _ hl hf hlt hc => execSend_slotOverwrite hl hf hlt hc item,
    fun _ hl he hlt hc => execRecv_slotEmptyRead hl he hlt hc⟩

/-! ## Idle commands (41_fifo_send.md R124; 42_fifo_receive.md R134; 45_counter.md R171) -/

/-- A port that is cleared answers nothing, whether it is one of the list or not. -/
theorem setCtrOut_none_ctrAnswer (s : State) (p : Nat) : (s.setCtrOut p none).ctrAnswer p = none := by
  rw [State.ctrAnswer, State.setCtrOut_ctrOut, List.getElem?_set_self']
  cases s.ctrOut[p]? <;> rfl

theorem setCtrOut_ctrAnswer_of_ne (s : State) {p q : Nat} (h : q ≠ p) (v : Option Nat) :
    (s.setCtrOut p v).ctrAnswer q = s.ctrAnswer q := by
  rw [State.ctrAnswer, State.setCtrOut_ctrOut, List.getElem?_set_ne h.symm, State.ctrAnswer]

/-- Settles O24: each idle command writes its own port's answer pin alone. -/
theorem idleCommandsChangeNoState : Obligations.IdleCommandsChangeNoState := by
  refine ⟨fun s => ?wIdle, fun s => ?rIdle, fun s p hp => ?ctrNop⟩
  case wIdle =>
    have hx : exec .wIdle s = .next (s.ackW false) := rfl
    exact ⟨_, hx, rfl, fun _ => rfl, ⟨rfl, rfl, rfl⟩, ⟨rfl, rfl, rfl⟩, ⟨rfl, rfl, rfl⟩, rfl, ⟨rfl, rfl, rfl, rfl⟩,
      .of_exec hx, rfl⟩
  case rIdle =>
    have hx : exec .rIdle s = .next (s.answerR none) := rfl
    exact ⟨_, hx, rfl, fun _ => rfl, ⟨rfl, rfl, rfl⟩, ⟨rfl, rfl, rfl⟩, ⟨rfl, rfl, rfl⟩, rfl, ⟨rfl, rfl, rfl, rfl⟩,
      .of_exec hx, rfl⟩
  case ctrNop =>
    have hx : exec (.ctrNop p) s = .next (s.setCtrOut p none) := if_pos hp
    have hfifo : SameFifo s (s.setCtrOut p none) :=
      ⟨fun _ => rfl, ⟨rfl, rfl, rfl⟩, ⟨rfl, rfl, rfl⟩, ⟨rfl, rfl, rfl⟩, rfl, rfl⟩
    exact ⟨_, hx, setCtrOut_none_ctrAnswer s p, fun _ hq => setCtrOut_ctrAnswer_of_ne s hq none, rfl, rfl, rfl, hfifo,
      .of_exec hx, rfl⟩

end Sys2Proof.Machine

namespace Sys2Proof.Machine

/-! ## RECV (42_fifo_receive.md R130, R132) -/

/-- Settles O22: the refusing branch of RECV writes `rd_valid` and the answer alone. -/
theorem recvOnEmptyChangesNothing : Obligations.RecvOnEmptyChangesNothing := by
  intro s hl he
  have hx : exec .recv s = .next ((s.answerR none).giveAnswer .noneItem) := execRecv_next.2 ⟨hl, .inl ⟨he, rfl⟩⟩
  exact ⟨_, hx, rfl, rfl, fun _ => rfl, ⟨rfl, rfl, rfl⟩, ⟨rfl, rfl, rfl⟩, ⟨rfl, rfl, rfl⟩, rfl, rfl, rfl,
    ⟨rfl, rfl, rfl, rfl⟩, .of_exec hx⟩

/-- Settles O23: the accepting branch of RECV empties cell `tail`, writes `tail` with its Gray copy, `rd_valid` with
`rd_data` and the answer alone. -/
theorem recvTakesAndPublishes : Obligations.RecvTakesAndPublishes := by
  intro s d hl he hlt hc
  have hread := Memory.read_erase s.slots s.tail
  have hx : exec .recv s = .next ((s.publishTail.answerR (some d)).giveAnswer (.someItem d)) :=
    execRecv_next.2 ⟨hl, .inr ⟨he, hlt, d, hc, rfl⟩⟩
  exact ⟨_, hx, rfl, rfl, (hread _).trans (if_pos rfl), fun j hj => (hread j).trans (if_neg hj), rfl, rfl, rfl,
    beq_iff_eq, rfl, ⟨rfl, rfl, rfl⟩, ⟨rfl, rfl, rfl⟩, rfl, ⟨rfl, rfl, rfl, rfl⟩, .of_exec hx⟩

end Sys2Proof.Machine

namespace Sys2Proof.Machine

/-! ## Edges of a domain out of reset (43_fifo_sync.md R146, R147) -/

section
variable {s t : State} {l : Line} {i : Instr}

/-- SEND touches no phase and no reset of the FIFO. -/
theorem SameFifoLife.of_execSend {item : Nat} (h : execSend item s = .next t) : SameFifoLife s t := by
  obtain ⟨-, ⟨-, rfl⟩ | ⟨-, -, -, rfl⟩⟩ := execSend_next.1 h <;> exact ⟨rfl, rfl, rfl⟩

/-- RECV touches no phase and no reset of the FIFO. -/
theorem SameFifoLife.of_execRecv (h : execRecv s = .next t) : SameFifoLife s t := by
  obtain ⟨-, ⟨-, rfl⟩ | ⟨-, -, -, -, rfl⟩⟩ := execRecv_next.1 h <;> exact ⟨rfl, rfl, rfl⟩

/-- Out of reset the command of a `wr_edge` is the operation it decodes to. -/
theorem wrCommand_eq (ha : l.agent = .p) (hp : l.offer.port = .w) (ho : s.wrRst = .out)
    (hd : decode l.offer = .ok i) : wrCommand l s = exec i s := by
  rw [wrCommand, if_pos hp, wrResetEdge_out ho, if_pos ho, runLine_eq (by rw [ha, hp]; rfl) hd]

/-- Out of reset the command of a `rd_edge` is the operation it decodes to. -/
theorem rdCommand_eq (ha : l.agent = .c) (hp : l.offer.port = .r) (ho : s.rdRst = .out)
    (hd : decode l.offer = .ok i) : rdCommand l s = exec i s := by
  rw [rdCommand, if_pos hp, rdResetEdge_out ho, if_pos ho, runLine_eq (by rw [ha, hp]; rfl) hd]

/-- A command of a `wr_edge` that completes out of reset ran what it decodes to, and leaves the FIFO's life alone. -/
theorem exec_of_wrCommand (ho : s.wrRst = .out) (hd : decode l.offer = .ok i) (h : wrCommand l s = .next t) :
    exec i s = .next t ∧ SameFifoLife s t := by
  obtain ⟨-, ⟨-, -, j, hj, hw, hx⟩ | ⟨hne, -⟩⟩ := wrCommand_next h
  · cases hd.symm.trans hj
    rw [wrResetEdge_out ho] at hx
    obtain rfl | rfl := hw
    · cases hx; exact ⟨rfl, rfl, rfl, rfl⟩
    · exact ⟨hx, .of_execSend hx⟩
  · rw [wrResetEdge_out ho] at hne
    exact absurd ho hne

/-- A command of a `rd_edge` that completes out of reset ran what it decodes to, and leaves the FIFO's life alone. -/
theorem exec_of_rdCommand (ho : s.rdRst = .out) (hd : decode l.offer = .ok i) (h : rdCommand l s = .next t) :
    exec i s = .next t ∧ SameFifoLife s t := by
  obtain ⟨-, ⟨-, -, j, hj, hr, hx⟩ | ⟨hne, -⟩⟩ := rdCommand_next h
  · cases hd.symm.trans hj
    rw [rdResetEdge_out ho] at hx
    obtain rfl | rfl := hr
    · cases hx; exact ⟨rfl, rfl, rfl, rfl⟩
    · exact ⟨hx, .of_execRecv hx⟩
  · rw [rdResetEdge_out ho] at hne
    exact absurd ho hne

theorem shiftTail_out (h : s.wrRst = .out) (g : Nat) : s.shiftTail g = { s with tsync := shiftIn g s.tsync } := if_pos h

theorem shiftHead_out (h : s.rdRst = .out) (g : Nat) : s.shiftHead g = { s with hsync := shiftIn g s.hsync } := if_pos h

/-- With both domains out of reset both chains shift. -/
theorem shiftTail_shiftHead_out (hw : s.wrRst = .out) (hr : s.rdRst = .out) (g g' : Nat) :
    (s.shiftTail g).shiftHead g' = { s with hsync := shiftIn g' s.hsync, tsync := shiftIn g s.tsync } := by
  rw [shiftTail_out hw]
  exact if_pos hr

end

/-- Settles O6: the step runs the edge, out of reset the edge's command is the decoded operation, and the chain shifts
since that operation leaves its domain out of reset. -/
theorem stepOnAnEdgeRunsCommandThenShifts : Obligations.StepOnAnEdgeRunsCommandThenShifts := by
  intro s t l rest i hf hd hx
  refine ⟨fun hin ha hp ho => ?wrEdge, fun hin ha hp ho => ?rdEdge⟩
  case wrEdge =>
    have hc : wrCommand l (s.consume rest) = .next t := (wrCommand_eq (s := s.consume rest) ha hp ho hd).trans hx
    obtain ⟨-, -, hw, -⟩ := exec_of_wrCommand (s := s.consume rest) ho hd hc
    rw [step_of_input hf hin, runInput, wrEdge, hc]
    exact congrArg _ (shiftTail_out (hw.trans ho) s.tailG)
  case rdEdge =>
    have hc : rdCommand l (s.consume rest) = .next t := (rdCommand_eq (s := s.consume rest) ha hp ho hd).trans hx
    obtain ⟨-, -, -, hr⟩ := exec_of_rdCommand (s := s.consume rest) ho hd hc
    rw [step_of_input hf hin, runInput, rdEdge, hc]
    exact congrArg _ (shiftHead_out (hr.trans ho) s.headG)

/-! ## The clocked level refines the untimed one (43_fifo_sync.md R151) -/

section
variable {s t : State}

/-- Of the chains the architectural state shows the seen indices alone (10_state.md R44). -/
theorem arch_eq_of_seen {h h' t t' : List Nat}
    (hh : ({ s with hsync := h, tsync := t } : State).headSeen = ({ s with hsync := h', tsync := t' } : State).headSeen)
    (ht : ({ s with hsync := h, tsync := t } : State).tailSeen =
      ({ s with hsync := h', tsync := t' } : State).tailSeen) :
    ({ s with hsync := h, tsync := t } : State).arch = ({ s with hsync := h', tsync := t' } : State).arch := by
  rw [State.arch, State.arch, hh, ht]

namespace Inv

theorem of_moveTail (hs : Inv s) {k : Nat} (h : moveTail k s = .next t) : Inv t := by
  unfold moveTail at h
  split at h
  · cases h; exact hs
  · exact hs.of_exec h

/-- XH reaches every index that is no further behind `head` than `head_seen`, in one step or none. -/
theorem moveHead_dist (hs : Inv s) (hl : s.fifoPhase = .live) {x : Nat} (hx : x < s.cap)
    (hle : dist s.cap x s.head ≤ s.headLag) :
    ∃ c, moveHead (dist s.cap s.headSeen x) s = .next { s with hsync := c } ∧
      ({ s with hsync := c } : State).headSeen = x := by
  have hsplit := dist_split_right hs.headSeen_lt hx hs.head_lt hle
  unfold moveHead
  split
  case isTrue h0 => exact ⟨s.hsync, rfl, (dist_eq_zero_iff hs.headSeen_lt hx).1 h0⟩
  case isFalse h0 =>
    have hk : dist s.cap s.headSeen x ≤ s.headLag := (Nat.le_add_right _ _).trans_eq hsplit.symm
    exact ⟨_, syncStep_next.2 ⟨hl, ⟨Nat.pos_of_ne_zero h0, hk⟩, rfl⟩,
      (hs.headSeen_catchUp (Nat.pos_of_ne_zero h0)).trans (forward_dist hs.headSeen_lt hx)⟩

/-- XT reaches every index that is no further behind `tail` than `tail_seen`, in one step or none. -/
theorem moveTail_dist (hs : Inv s) (hl : s.fifoPhase = .live) {x : Nat} (hx : x < s.cap)
    (hle : dist s.cap x s.tail ≤ s.tailLag) :
    ∃ c, moveTail (dist s.cap s.tailSeen x) s = .next { s with tsync := c } ∧
      ({ s with tsync := c } : State).tailSeen = x := by
  have hsplit := dist_split_right hs.tailSeen_lt hx hs.tail_lt hle
  unfold moveTail
  split
  case isTrue h0 => exact ⟨s.tsync, rfl, (dist_eq_zero_iff hs.tailSeen_lt hx).1 h0⟩
  case isFalse h0 =>
    have hk : dist s.cap s.tailSeen x ≤ s.tailLag := (Nat.le_add_right _ _).trans_eq hsplit.symm
    exact ⟨_, syncStep_next.2 ⟨hl, ⟨Nat.pos_of_ne_zero h0, hk⟩, rfl⟩,
      (hs.tailSeen_catchUp (Nat.pos_of_ne_zero h0)).trans (forward_dist hs.tailSeen_lt hx)⟩

/-- A shift of `hsync`, whatever it takes in, moves `head_seen` as XH may: the last stage becomes an older one. -/
theorem moveHead_shiftIn (hs : Inv s) (hl : s.fifoPhase = .live) (g : Nat) :
    ∃ c, moveHead (dist s.cap s.headSeen ({ s with hsync := shiftIn g s.hsync } : State).headSeen) s =
        .next { s with hsync := c } ∧
      ({ s with hsync := c } : State).headSeen = ({ s with hsync := shiftIn g s.hsync } : State).headSeen :=
  hs.moveHead_dist hl (hs.hstage_lt (shiftIn_getLastD_mem hs.two_le_hsync))
    (hs.hsync_ordered.shiftIn_last hs.two_le_hsync)

/-- A shift of `tsync`, whatever it takes in, moves `tail_seen` as XT may. -/
theorem moveTail_shiftIn (hs : Inv s) (hl : s.fifoPhase = .live) (g : Nat) :
    ∃ c, moveTail (dist s.cap s.tailSeen ({ s with tsync := shiftIn g s.tsync } : State).tailSeen) s =
        .next { s with tsync := c } ∧
      ({ s with tsync := c } : State).tailSeen = ({ s with tsync := shiftIn g s.tsync } : State).tailSeen :=
  hs.moveTail_dist hl (hs.tstage_lt (shiftIn_getLastD_mem hs.two_le_tsync))
    (hs.tsync_ordered.shiftIn_last hs.two_le_tsync)

end Inv

theorem State.cap_eq_of_params (h : t.params = s.params) : t.cap = s.cap := by rw [State.cap, State.cap, h]

/-- A seen index is read from its chain and the parameters alone (10_state.md R34). -/
theorem State.headSeen_eq_of_hsync (hp : t.params = s.params) (h : t.hsync = s.hsync) : t.headSeen = s.headSeen := by
  rw [State.headSeen, State.headSeen, State.aw, State.aw, hp, h]

theorem State.tailSeen_eq_of_tsync (hp : t.params = s.params) (h : t.tsync = s.tsync) : t.tailSeen = s.tailSeen := by
  rw [State.tailSeen, State.tailSeen, State.aw, State.aw, hp, h]

end

/-- Settles O52: the command is C's step, which leaves `hsync` alone, and the shift after it moves `head_seen` as XH
may. -/
theorem readEdgeRefinesUntimedSteps : Obligations.ReadEdgeRefinesUntimedSteps := by
  intro s t l i hs ho hd h
  obtain ⟨u, hu, ht⟩ := andThen_next.1 h
  cases ht
  obtain ⟨hx, hphase, -, hrst⟩ := exec_of_rdCommand ho hd hu
  obtain ⟨hp, -⟩ := SameFrame.of_exec hx
  obtain ⟨-, hhsync, -⟩ := ReadsAtMostOne.of_rdCommand hu
  obtain ⟨c, hmove, hseen⟩ := (hs.of_exec hx).moveHead_shiftIn (hphase.trans (hs.rd_live ho)) s.headG
  rw [shiftHead_out (hrst.trans ho), ← State.cap_eq_of_params hp, ← State.headSeen_eq_of_hsync hp hhsync]
  exact ⟨u, _, hx, hmove, arch_eq_of_seen hseen.symm rfl, rfl, rfl⟩

/-- Settles O53: the command is P's step, which leaves `tsync` alone, and the shift after it moves `tail_seen` as XT
may. -/
theorem writeEdgeRefinesUntimedSteps : Obligations.WriteEdgeRefinesUntimedSteps := by
  intro s t l i hs ho hd h
  obtain ⟨u, hu, ht⟩ := andThen_next.1 h
  cases ht
  obtain ⟨hx, hphase, hrst, -⟩ := exec_of_wrCommand ho hd hu
  obtain ⟨hp, -⟩ := SameFrame.of_exec hx
  obtain ⟨-, htsync, -⟩ := WritesAtMostOne.of_wrCommand hu
  obtain ⟨c, hmove, hseen⟩ := (hs.of_exec hx).moveTail_shiftIn (hphase.trans (hs.wr_live ho)) s.tailG
  rw [shiftTail_out (hrst.trans ho), ← State.cap_eq_of_params hp, ← State.tailSeen_eq_of_tsync hp htsync]
  exact ⟨u, _, hx, hmove, arch_eq_of_seen rfl hseen.symm, rfl, rfl⟩

/-- Settles O54: neither command touches a chain, and each chain's shift, whatever it samples, moves its seen index as
its synchronizer may. -/
theorem coincidingEdgesRefineUntimedSteps : Obligations.CoincidingEdgesRefineUntimedSteps := by
  intro s t lw lr hMix tMix iw ir hs hw hr hdw hdr h
  obtain ⟨a, ha, h⟩ := andThen_next.1 h
  obtain ⟨b, hb, ht⟩ := andThen_next.1 h
  cases ht
  obtain ⟨hxa, haphase, hawr, hard⟩ := exec_of_rdCommand hr hdr ha
  obtain ⟨hxb, hbphase, hbwr, hbrd⟩ := exec_of_wrCommand (hawr.trans hw) hdw hb
  obtain ⟨⟨-, -, hatsync⟩, hahsync, -⟩ := ReadsAtMostOne.of_rdCommand ha
  obtain ⟨⟨-, -, hbhsync⟩, hbtsync, -⟩ := WritesAtMostOne.of_wrCommand hb
  have hp : b.params = s.params := ((SameFrame.of_exec hxa).trans (SameFrame.of_exec hxb)).1
  have hl : b.fifoPhase = .live := hbphase.trans (haphase.trans (hs.rd_live hr))
  have hib := (hs.of_exec hxa).of_exec hxb
  obtain ⟨ct, hmoveT, hseenT⟩ := hib.moveTail_shiftIn hl (sample s.tailG b.tailG tMix)
  obtain ⟨ch, hmoveH, hseenH⟩ := (hib.of_moveTail hmoveT).moveHead_shiftIn hl (sample s.headG b.headG hMix)
  rw [shiftTail_shiftHead_out (hbwr.trans (hawr.trans hw)) (hbrd.trans (hard.trans hr)),
    ← State.cap_eq_of_params hp, ← State.headSeen_eq_of_hsync hp (hbhsync.trans hahsync),
    ← State.tailSeen_eq_of_tsync hp (hbtsync.trans hatsync)]
  exact ⟨a, b, _, _, hxa, hxb, hmoveT, hmoveH, arch_eq_of_seen hseenH.symm hseenT.symm, rfl, rfl, rfl⟩

end Sys2Proof.Machine

namespace Sys2Proof.Machine

/-! ## The untimed steps of the synchronizers (43_fifo_sync.md R140, R141) -/

theorem syncStep_refused {s t : State} {k lag : Nat} (hl : s.fifoPhase = .live) (hk : k = 0 ∨ lag < k) :
    syncStep s k lag t = .refused .syncNotEnabled := by
  rw [syncStep, whileFifoLive_live hl, if_neg (by omega)]

/-- Settles O34: both synchronizers ask the draw of their lag first. -/
theorem drawsOutsideTheLagAreNoStep : Obligations.DrawsOutsideTheLagAreNoStep := fun _ _ hl =>
  ⟨syncStep_refused hl, syncStep_refused hl⟩

/-- Settles O32: SYNC_H writes `hsync` alone, and with `k` items more in view the FIFO does not look empty. -/
theorem syncHMovesHeadSeen : Obligations.SyncHMovesHeadSeen := by
  intro s k hs hl hk hle
  obtain ⟨t, hx, -, -, hrd⟩ := hs.exec_syncH hl hk hle
  have he : t.empty = false := Bool.eq_false_iff.2 ((hs.of_exec hx).empty_iff.not.2 (by omega))
  obtain ⟨-, -, rfl⟩ := exec_next hx
  exact ⟨_, hx, hs.headSeen_catchUp hk, hrd, he, rfl, fun _ => rfl, ⟨rfl, rfl, rfl⟩, rfl, rfl, ⟨rfl, rfl, rfl⟩, rfl,
    rfl, ⟨rfl, rfl, rfl, rfl⟩, .of_exec hx, rfl⟩

/-- What SYNC_T of draw `k` leaves: `k` more free cells in view. -/
theorem Inv.exec_syncT {s : State} (hs : Inv s) (hl : s.fifoPhase = .live) {k : Nat} (hk : 1 ≤ k)
    (hle : k ≤ s.tailLag) : ∃ t, exec (.syncT k) s = .next t ∧ t.wrLen + k = s.wrLen := by
  refine ⟨_, syncStep_next.2 ⟨hl, ⟨hk, hle⟩, rfl⟩, ?_⟩
  have htot := hs.totals.2
  rw [State.wrLen, hs.tailSeen_catchUp hk, Nat.add_comm]
  exact dist_forward_add hs.tailSeen_lt hs.head_lt (show k ≤ s.wrLen by omega)

/-- Settles O33: SYNC_T writes `tsync` alone, and with `k` free cells more in view the FIFO does not look full. -/
theorem syncTMovesTailSeen : Obligations.SyncTMovesTailSeen := by
  intro s k hs hl hk hle
  obtain ⟨t, hx, hwr⟩ := hs.exec_syncT hl hk hle
  obtain ⟨hp, -⟩ := SameFrame.of_exec hx
  have hcap := State.cap_eq_of_params hp
  have hring := hs.ring'
  have htot := hs.totals.2
  have hf : t.full = false := Bool.eq_false_iff.2 ((hs.of_exec hx).full_iff.not.2 (by omega))
  obtain ⟨-, -, rfl⟩ := exec_next hx
  exact ⟨_, hx, hs.tailSeen_catchUp hk, hwr, hf, rfl, fun _ => rfl, ⟨rfl, rfl, rfl⟩, rfl, rfl, ⟨rfl, rfl, rfl⟩, rfl,
    rfl, ⟨rfl, rfl, rfl, rfl⟩, .of_exec hx, rfl⟩

/-- Settles O56: a step of a live FIFO advances it. -/
theorem lagsShrinkWhileIndicesStand : Obligations.LagsShrinkWhileIndicesStand := fun s t hs h hl =>
  have ht := everyStepKeepsTheInvariant s t hs h
  have ha := hs.advances_step h hl
  ⟨ha.headLag hs ht, ha.tailLag hs ht⟩

/-! ## Sampling (43_fifo_sync.md R148, R149) -/

/-- The mask chooses, bit by bit, between the new and the old value. -/
theorem testBit_sample (old new mix i : Nat) :
    (sample old new mix).testBit i = if mix.testBit i then new.testBit i else old.testBit i := by
  rw [sample, Nat.testBit_xor, Nat.testBit_and, Nat.testBit_xor]
  cases mix.testBit i <;> simp

/-- Settles O37: the mask that draws `v` has a 1 where `v` differs from the old value. -/
theorem samplingIsOldOrNewPerBit : Obligations.SamplingIsOldOrNewPerBit := by
  refine ⟨fun old new mix i => ?_, fun old new v h => ⟨old ^^^ v, Nat.eq_of_testBit_eq fun i => ?_⟩, sample_same⟩
  · rw [testBit_sample]
    split
    · exact .inr rfl
    · exact .inl rfl
  · rw [testBit_sample, Nat.testBit_xor]
    obtain hv | hv := h i <;> rw [hv]
    · simp
    · cases old.testBit i <;> cases new.testBit i <;> rfl

/-- Settles O38: the sample is one of the two codes, and a code decodes to its index. -/
theorem sampledIndexIsOldOrNew : Obligations.SampledIndexIsOldOrNew := by
  intro aw b mix hb
  obtain h | h := sample_bin2gray_inc hb mix <;> rw [h]
  · exact .inl (gray2bin_bin2gray hb)
  · exact .inr (gray2bin_bin2gray (inc_lt (Nat.two_pow_pos aw) b))

/-! ## What a chain has taken in -/

/-- The last `j` codes that `chain` took in all have `P`: they stand in its first `j` stages. -/
def TookIn (P : Nat → Prop) (j : Nat) (chain : List Nat) : Prop := ∀ g ∈ chain.take j, P g

section
variable {P : Nat → Prop} {j v : Nat} {chain : List Nat}

theorem TookIn.zero (P : Nat → Prop) (chain : List Nat) : TookIn P 0 chain := by simp [TookIn]

theorem TookIn.shiftIn (h : TookIn P j chain) (hv : P v) : TookIn P (j + 1) (shiftIn v chain) := by
  intro g hg
  rw [Machine.shiftIn, List.take_take, Nat.min_comm, ← List.take_take] at hg
  obtain rfl | hg := List.mem_cons.1 (List.mem_of_mem_take hg)
  exacts [hv, h g hg]

theorem TookIn.of_succ (h : TookIn P (j + 1) chain) : TookIn P j chain := fun g hg => by
  refine h g (List.mem_of_mem_take (i := j) ?_)
  rwa [List.take_take, Nat.min_eq_left (Nat.le_succ j)]

/-- A chain that took in as many as it has stages shows one of them. -/
theorem TookIn.last (h : TookIn P j chain) (hj : chain.length ≤ j) (hne : chain ≠ []) : P (chain.getLastD 0) :=
  h _ (by rw [List.take_of_length_le hj]; exact getLastD_mem hne)

end

/-! ## Clocks that never stop (43_fifo_sync.md R142, R145, R151) -/

/-- The chain took in a code of its source, from before or from after the source changed. -/
def TakesIn (aw : Nat) (chain chain' : List Nat) (index index' : Nat) : Prop :=
  ∃ g, chain' = shiftIn g chain ∧ (gray2bin aw g = index ∨ gray2bin aw g = index')

section
variable {s t : State}

/-- A sample of an index that stands or moves one step decodes to the index before or after. -/
theorem gray2bin_sample {aw cap index index' : Nat} (hcap : cap = 2 ^ aw) (hi : index < cap)
    (hmove : index' = index ∨ index' = inc cap index) (mix : Nat) :
    gray2bin aw (sample (bin2gray index) (bin2gray index') mix) = index ∨
      gray2bin aw (sample (bin2gray index) (bin2gray index') mix) = index' := by
  subst hcap
  obtain rfl | rfl := hmove
  · rw [sample_same, gray2bin_bin2gray hi]
    exact .inl rfl
  · exact sampledIndexIsOldOrNew aw index mix hi

theorem shiftHead_rst (s : State) (g : Nat) : (s.shiftHead g).wrRst = s.wrRst ∧ (s.shiftHead g).rdRst = s.rdRst := by
  obtain h | h := shiftHead_cases s g <;> rw [h] <;> exact ⟨rfl, rfl⟩

theorem shiftTail_rst (s : State) (g : Nat) : (s.shiftTail g).wrRst = s.wrRst ∧ (s.shiftTail g).rdRst = s.rdRst := by
  obtain h | h := shiftTail_cases s g <;> rw [h] <;> exact ⟨rfl, rfl⟩

/-- Coinciding edges that end out of reset: each chain takes in a sample of its source across the edges, and each source
moves one step on at most. -/
theorem bothEdges_out {lw lr : Line} {hMix tMix : Nat} (h : bothEdges lw lr hMix tMix s = .next t)
    (hw : t.wrRst = .out) (hr : t.rdRst = .out) :
    t.hsync = shiftIn (sample s.headG t.headG hMix) s.hsync ∧ t.tsync = shiftIn (sample s.tailG t.tailG tMix) s.tsync ∧
      (t.head = s.head ∨ t.head = inc s.cap s.head) ∧ (t.tail = s.tail ∨ t.tail = inc s.cap s.tail) := by
  obtain ⟨u, hu, h⟩ := andThen_next.1 h
  obtain ⟨v, hv, ht⟩ := andThen_next.1 h
  cases ht
  obtain ⟨⟨huhead, -, hutsync⟩, huhsync, hutail⟩ := ReadsAtMostOne.of_rdCommand hu
  obtain ⟨⟨hvtail, -, hvhsync⟩, hvtsync, hvhead⟩ := WritesAtMostOne.of_wrCommand hv
  obtain ⟨hp, -⟩ := SameFrame.of_rdCommand hu
  rw [(shiftHead_rst _ _).1, (shiftTail_rst _ _).1] at hw
  rw [(shiftHead_rst _ _).2, (shiftTail_rst _ _).2] at hr
  rw [shiftTail_shiftHead_out hw hr, ← huhsync, ← hvhsync, ← hutsync, ← hvtsync, ← huhead]
  rw [State.cap_eq_of_params hp] at hvhead
  exact ⟨rfl, rfl, hvhead.imp_right And.right, hvtail ▸ hutail.imp_right And.right⟩

namespace Inv

/-- At every clock edge `hsync` takes in a code of `head`, or stands at an edge that is no `rd_edge`. -/
theorem hsync_runInput (hs : Inv s) {x : Input} (h : runInput x s = .next t)
    (hx : (x.isWrEdge || x.isRdEdge || x.isCtrEdge) = true) (hw : t.wrRst = .out) (hr : t.rdRst = .out) :
    (x.isRdEdge = false ∧ t.hsync = s.hsync) ∨ TakesIn s.aw s.hsync t.hsync s.head t.head := by
  cases x with
  | line | fifoPins | ctrPin => cases hx
  | ctrEdge ls =>
    obtain ⟨-, -, -, -, -, hh⟩ := FifoStands.of_ctrEdge h
    exact .inl ⟨rfl, hh⟩
  | wrEdge l =>
    obtain ⟨u, hu, ht⟩ := andThen_next.1 h
    cases ht
    obtain ⟨⟨-, -, hh⟩, -, -⟩ := WritesAtMostOne.of_wrCommand hu
    rw [shiftTail_out ((shiftTail_rst u _).1.symm.trans hw)]
    exact .inl ⟨rfl, hh⟩
  | rdEdge l =>
    obtain ⟨u, hu, ht⟩ := andThen_next.1 h
    cases ht
    obtain ⟨-, hh, -⟩ := ReadsAtMostOne.of_rdCommand hu
    rw [shiftHead_out ((shiftHead_rst u _).2.symm.trans hr), ← hh]
    exact .inr ⟨s.headG, rfl, .inl hs.headG_dec⟩
  | bothEdges lw lr hMix tMix =>
    obtain ⟨hh, -, hmove, -⟩ := bothEdges_out h hw hr
    have hseen := gray2bin_sample s.cap_eq hs.head_lt hmove hMix
    rw [← hs.headG_eq, ← (hs.of_bothEdges h).headG_eq] at hseen
    exact .inr ⟨_, hh, hseen⟩

/-- At every clock edge `tsync` takes in a code of `tail`, or stands at an edge that is no `wr_edge`. -/
theorem tsync_runInput (hs : Inv s) {x : Input} (h : runInput x s = .next t)
    (hx : (x.isWrEdge || x.isRdEdge || x.isCtrEdge) = true) (hw : t.wrRst = .out) (hr : t.rdRst = .out) :
    (x.isWrEdge = false ∧ t.tsync = s.tsync) ∨ TakesIn s.aw s.tsync t.tsync s.tail t.tail := by
  cases x with
  | line | fifoPins | ctrPin => cases hx
  | ctrEdge ls =>
    obtain ⟨-, -, ⟨-, -, ht⟩, -⟩ := FifoStands.of_ctrEdge h
    exact .inl ⟨rfl, ht⟩
  | rdEdge l =>
    obtain ⟨u, hu, ht⟩ := andThen_next.1 h
    cases ht
    obtain ⟨⟨-, -, ht⟩, -, -⟩ := ReadsAtMostOne.of_rdCommand hu
    rw [shiftHead_out ((shiftHead_rst u _).2.symm.trans hr)]
    exact .inl ⟨rfl, ht⟩
  | wrEdge l =>
    obtain ⟨u, hu, ht⟩ := andThen_next.1 h
    cases ht
    obtain ⟨-, ht, -⟩ := WritesAtMostOne.of_wrCommand hu
    rw [shiftTail_out ((shiftTail_rst u _).1.symm.trans hw), ← ht]
    exact .inr ⟨s.tailG, rfl, .inl hs.tailG_dec⟩
  | bothEdges lw lr hMix tMix =>
    obtain ⟨-, ht, -, hmove⟩ := bothEdges_out h hw hr
    have hseen := gray2bin_sample s.cap_eq hs.tail_lt hmove tMix
    rw [← hs.tailG_eq, ← (hs.of_bothEdges h).tailG_eq] at hseen
    exact .inr ⟨_, ht, hseen⟩

end Inv

end

/-- A code taken in of a source that stands elsewhere than at `x` does not decode to `x`. -/
theorem TookIn.takesIn {aw x j index index' : Nat} {chain chain' : List Nat}
    (h : TookIn (gray2bin aw · ≠ x) j chain) (ht : TakesIn aw chain chain' index index') (hi : index ≠ x)
    (hi' : index' ≠ x) : TookIn (gray2bin aw · ≠ x) (j + 1) chain' := by
  obtain ⟨g, rfl, hg | hg⟩ := ht <;> exact h.shiftIn (hg.trans_ne ‹_›)

/-- A chain that takes in codes with `P` at edges that come again and again takes in any number of them. -/
theorem exists_tookIn {P : Nat → Prop} {n : Nat} {chain : Nat → List Nat} {edge : Nat → Prop}
    (hedge : ∀ m, ∃ j, m ≤ j ∧ edge j)
    (htakes : ∀ m j, n ≤ m → TookIn P j (chain m) →
      (¬edge m ∧ TookIn P j (chain (m + 1))) ∨ TookIn P (j + 1) (chain (m + 1))) (j : Nat) :
    ∃ m, n ≤ m ∧ TookIn P j (chain m) := by
  induction j with
  | zero => exact ⟨n, le_rfl, .zero P (chain n)⟩
  | succ j ih =>
    obtain ⟨m, hm, h⟩ := ih
    have hkept (e : Nat) (he : m ≤ e) : TookIn P j (chain e) := by
      induction e, he using Nat.le_induction with
      | base => exact h
      | succ e he ih =>
        obtain ⟨-, h⟩ | h := htakes e j (hm.trans he) ih
        exacts [h, h.of_succ]
    obtain ⟨e, he, hthis⟩ := hedge m
    obtain ⟨hno, -⟩ | h := htakes e j (hm.trans he) (hkept e he)
    · exact absurd hthis hno
    · exact ⟨e + 1, by omega, h⟩

/-- A chain that takes in codes of its source again and again moves its last stage, as long as that differs from the
source: once every stage holds a code from after step `n`, the last one cannot show what it showed there. -/
theorem exists_seen_moves {aw len n : Nat} {chain : Nat → List Nat} {seen index : Nat → Nat} {edge : Nat → Prop}
    (hseen : ∀ m, seen m = gray2bin aw ((chain m).getLastD 0)) (hlen : ∀ m, (chain m).length = len)
    (hne : ∀ m, chain m ≠ []) (hedge : ∀ m, ∃ j, m ≤ j ∧ edge j)
    (hstep : ∀ m, (¬edge m ∧ chain (m + 1) = chain m) ∨ TakesIn aw (chain m) (chain (m + 1)) (index m) (index (m + 1)))
    (hdiff : ∀ m, n ≤ m → seen m ≠ index m) : ∃ m, n ≤ m ∧ seen (m + 1) ≠ seen m := by
  by_contra! hstand
  have hsame (m : Nat) (hm : n ≤ m) : seen m = seen n := by
    induction m, hm using Nat.le_induction with
    | base => rfl
    | succ m hm ih => exact (hstand m hm).trans ih
  have hnew (m : Nat) (hm : n ≤ m) : index m ≠ seen n := hsame m hm ▸ (hdiff m hm).symm
  obtain ⟨m, hm, h⟩ := exists_tookIn (P := (gray2bin aw · ≠ seen n)) hedge
    (fun m j hm h => (hstep m).imp (fun ⟨hno, hc⟩ => ⟨hno, hc ▸ h⟩)
      fun ht => h.takesIn ht (hnew m hm) (hnew (m + 1) (by omega))) len
  exact h.last (hlen m).le (hne m) ((hseen m).symm.trans (hsame m hm))

section
variable {env : Nat → Option Input} {run : Nat → State}

theorem IsRun.params_eq (hr : IsRun env run) (m : Nat) : (run m).params = (run 0).params := by
  induction m with
  | zero => rfl
  | succ m ih => exact (parametersNeverChange _ _ (hr m)).1.trans ih

/-- A step of a clocked run is one of its edges. -/
theorem IsRun.runInput_of_clocked (hr : IsRun env run) (hc : IsClocked env) (m : Nat) :
    ∃ x, env m = some x ∧ (x.isWrEdge || x.isRdEdge || x.isCtrEdge) = true ∧
      runInput x (((run m).offered (some x)).consume []) = .next (run (m + 1)) := by
  obtain ⟨x, hx, hedge⟩ := hc.1 m
  exact ⟨x, hx, hedge, runInput_of_step_offered (hx ▸ hr m)⟩

end

/-- Settles O59: each chain takes in codes of its source at edges that come again and again. -/
theorem runningClocksAreFair : Obligations.RunningClocksAreFair := by
  intro env run hr hc h0 hout
  have ⟨_, hwr, hrd, _⟩ := hc
  have hi := hr.inv h0
  have hp := hr.params_eq
  have haw (m : Nat) : (run m).aw = (run 0).aw := by rw [State.aw, State.aw, hp]
  refine ⟨fun n hen => ?head, fun n hen => ?tail⟩
  case head =>
    refine exists_seen_moves (fun m => by rw [State.headSeen, haw m]) (fun m => (hi m).hsync_length.trans (by rw [hp]))
      (fun m => (hi m).hsync_ne) hrd (fun m => ?_) fun m hm => (hen m hm).2
    obtain ⟨x, hx, hedge, hstep⟩ := hr.runInput_of_clocked hc m
    have htakes := (((hi m).offered (some x)).consume []).hsync_runInput hstep hedge (hout _).1 (hout _).2
    exact htakes.imp (fun ⟨hno, hh⟩ => ⟨by simp [hx, hno], hh⟩) fun ht => haw m ▸ ht
  case tail =>
    refine exists_seen_moves (fun m => by rw [State.tailSeen, haw m]) (fun m => (hi m).tsync_length.trans (by rw [hp]))
      (fun m => (hi m).tsync_ne) hwr (fun m => ?_) fun m hm => (hen m hm).2
    obtain ⟨x, hx, hedge, hstep⟩ := hr.runInput_of_clocked hc m
    have htakes := (((hi m).offered (some x)).consume []).tsync_runInput hstep hedge (hout _).1 (hout _).2
    exact htakes.imp (fun ⟨hno, hh⟩ => ⟨by simp [hx, hno], hh⟩) fun ht => haw m ▸ ht

end Sys2Proof.Machine

namespace Sys2Proof.Machine

/-! ## S edges of one clock (43_fifo_sync.md R146, R147; 70_reset_and_hazards.md R254) -/

section
variable {s t : State} {i : Instr} {rest : List Input} {j : Nat}

/-- A run goes on from the state its first step leaves. -/
theorem run_succ_of_step {M : Host.Core} {s t : M.State} (h : M.step s = .next t) (n : Nat) :
    M.run (n + 1) s = M.run n t := by
  rw [Host.Core.run, h]

/-- Edges that come one after another: when each has a step that leads from `A j` to `A (j + 1)`, all have theirs, and
what an idle command leaves alone, idle commands leave alone. -/
theorem run_of_steps {β : Type} {A : Nat → State → Prop} {edge : Instr → Input} {ok : Instr → Prop} {idle : Instr}
    {view : State → β}
    (hstep : ∀ j s i rest, A j s → ok i → s.input = edge i :: rest →
      ∃ t, step s = .next t ∧ A (j + 1) t ∧ t.input = rest ∧ (i = idle → view t = view s))
    {cmds : List Instr} (ha : A j s) (hok : ∀ i ∈ cmds, ok i) (hin : s.input = cmds.map edge) :
    ∃ t, Host.Core.run Sys2Proof.core cmds.length s = .next t ∧ A (j + cmds.length) t ∧
      ((∀ i ∈ cmds, i = idle) → view t = view s) := by
  induction cmds generalizing j s with
  | nil => exact ⟨s, rfl, ha, fun _ => rfl⟩
  | cons i cmds ih =>
    obtain ⟨hi, hcmds⟩ := List.forall_mem_cons.1 hok
    obtain ⟨t, ht, hat, hint, hview⟩ := hstep j s i _ ha hi hin
    obtain ⟨u, hu, hau, hviews⟩ := ih hat hcmds hint
    refine ⟨u, ?_, ?_, fun h => ?_⟩
    · exact (run_succ_of_step (M := Sys2Proof.core) ht cmds.length).trans hu
    · rwa [List.length_cons, Nat.add_comm cmds.length, ← Nat.add_assoc]
    · obtain ⟨hidle, hidles⟩ := List.forall_mem_cons.1 h
      exact (hviews hidles).trans (hview hidle)

theorem Inv.exec_recv_next (hs : Inv s) (hl : s.fifoPhase = .live) : ∃ t, exec .recv s = .next t := by
  cases he : s.empty with
  | true => exact ⟨_, execRecv_next.2 ⟨hl, .inl ⟨he, rfl⟩⟩⟩
  | false =>
    obtain ⟨d, t, ht, -⟩ := hs.exec_recv_some hl he
    exact ⟨t, ht⟩

theorem Inv.exec_send_next (hs : Inv s) (hl : s.fifoPhase = .live) (item : Nat) :
    ∃ t, exec (.send item) s = .next t := by
  cases hf : s.full with
  | true => exact ⟨_, execSend_next.2 ⟨hl, .inl ⟨hf, rfl⟩⟩⟩
  | false =>
    obtain ⟨t, ht, -⟩ := hs.exec_send_ok hl hf item
    exact ⟨t, ht⟩

/-- A read edge out of reset completes, whatever C does at it: `hsync` takes in `head_g`, the write domain stands, and
an R_IDLE leaves `tail` and the cells alone. -/
theorem Inv.step_rdEdge (hs : Inv s) (hf : s.faulted = []) (ho : s.rdRst = .out) (hi : i = .rIdle ∨ i = .recv)
    (hin : s.input = .rdEdge (lineOf i) :: rest) :
    ∃ t, step s = .next t ∧ t.input = rest ∧ t.rdRst = .out ∧ SameWriteRegs s t ∧
      t.hsync = shiftIn s.headG s.hsync ∧ (i = .rIdle → (t.tail, t.slots) = (s.tail, s.slots)) := by
  obtain ⟨ha, hp⟩ : (lineOf i).agent = .c ∧ (lineOf i).offer.port = .r := by obtain rfl | rfl := hi <;> exact ⟨rfl, rfl⟩
  obtain ⟨u, hx⟩ : ∃ u, exec i (s.consume rest) = .next u := by
    obtain rfl | rfl := hi
    · exact ⟨_, rfl⟩
    · exact (hs.consume rest).exec_recv_next (hs.rd_live ho)
  have hd := decode_encode i
  have hc : rdCommand (lineOf i) (s.consume rest) = .next u := (rdCommand_eq (s := s.consume rest) ha hp ho hd).trans hx
  obtain ⟨-, -, -, hrst⟩ := exec_of_rdCommand (s := s.consume rest) ho hd hc
  obtain ⟨-, -, hinput, -⟩ := SameFrame.of_exec hx
  obtain ⟨hregs, hhsync, -⟩ := ReadsAtMostOne.of_rdCommand hc
  exact ⟨_, (stepOnAnEdgeRunsCommandThenShifts s u _ rest i hf hd hx).2 hin ha hp ho, hinput, hrst.trans ho, hregs,
    congrArg (shiftIn s.headG) hhsync, by rintro rfl; cases hx; rfl⟩

/-- A write edge out of reset completes, whatever P does at it: `tsync` takes in `tail_g`, the read domain stands, and a
W_IDLE leaves `head` and the cells alone. -/
theorem Inv.step_wrEdge (hs : Inv s) (hf : s.faulted = []) (ho : s.wrRst = .out)
    (hi : i = .wIdle ∨ ∃ item, i = .send item) (hin : s.input = .wrEdge (lineOf i) :: rest) :
    ∃ t, step s = .next t ∧ t.input = rest ∧ t.wrRst = .out ∧ SameReadRegs s t ∧
      t.tsync = shiftIn s.tailG s.tsync ∧ (i = .wIdle → (t.head, t.slots) = (s.head, s.slots)) := by
  obtain ⟨ha, hp⟩ : (lineOf i).agent = .p ∧ (lineOf i).offer.port = .w := by
    obtain rfl | ⟨item, rfl⟩ := hi <;> exact ⟨rfl, rfl⟩
  obtain ⟨u, hx⟩ : ∃ u, exec i (s.consume rest) = .next u := by
    obtain rfl | ⟨item, rfl⟩ := hi
    · exact ⟨_, rfl⟩
    · exact (hs.consume rest).exec_send_next (hs.wr_live ho) item
  have hd := decode_encode i
  have hc : wrCommand (lineOf i) (s.consume rest) = .next u := (wrCommand_eq (s := s.consume rest) ha hp ho hd).trans hx
  obtain ⟨-, -, hrst, -⟩ := exec_of_wrCommand (s := s.consume rest) ho hd hc
  obtain ⟨-, -, hinput, -⟩ := SameFrame.of_exec hx
  obtain ⟨hregs, htsync, -⟩ := WritesAtMostOne.of_wrCommand hc
  exact ⟨_, (stepOnAnEdgeRunsCommandThenShifts s u _ rest i hf hd hx).1 hin ha hp ho, hinput, hrst.trans ho, hregs,
    congrArg (shiftIn s.tailG) htsync, by rintro rfl; cases hx; rfl⟩

/-- What `j` read edges out of reset, whatever C does at them, have left of the state `s` they began in. -/
structure AfterReadEdges (s : State) (j : Nat) (t : State) : Prop where
  inv : Inv t
  faulted_eq : t.faulted = []
  params_eq : t.params = s.params
  rdRst_out : t.rdRst = .out
  writeRegs : SameWriteRegs s t
  tookIn : TookIn (· = s.headG) j t.hsync

/-- What `j` write edges out of reset, whatever P does at them, have left of the state `s` they began in. -/
structure AfterWriteEdges (s : State) (j : Nat) (t : State) : Prop where
  inv : Inv t
  faulted_eq : t.faulted = []
  params_eq : t.params = s.params
  wrRst_out : t.wrRst = .out
  readRegs : SameReadRegs s t
  tookIn : TookIn (· = s.tailG) j t.tsync

theorem AfterReadEdges.step (h : AfterReadEdges s j t) (hi : i = .rIdle ∨ i = .recv)
    (hin : t.input = .rdEdge (lineOf i) :: rest) :
    ∃ u, Machine.step t = .next u ∧ AfterReadEdges s (j + 1) u ∧ u.input = rest ∧
      (i = .rIdle → (u.tail, u.slots) = (t.tail, t.slots)) := by
  obtain ⟨ht, hf, hp, ho, ⟨hh, hg, hc⟩, htook⟩ := h
  obtain ⟨u, hstep, hinput, hrst, ⟨hh', hg', hc'⟩, hhsync, hidle⟩ := ht.step_rdEdge hf ho hi hin
  obtain ⟨hp', hf'⟩ := parametersNeverChange _ _ hstep
  exact ⟨u, hstep, ⟨everyStepKeepsTheInvariant _ _ ht hstep, hf'.trans hf, hp'.trans hp, hrst,
    ⟨hh'.trans hh, hg'.trans hg, hc'.trans hc⟩, hhsync ▸ htook.shiftIn hg⟩, hinput, hidle⟩

theorem AfterWriteEdges.step (h : AfterWriteEdges s j t) (hi : i = .wIdle ∨ ∃ item, i = .send item)
    (hin : t.input = .wrEdge (lineOf i) :: rest) :
    ∃ u, Machine.step t = .next u ∧ AfterWriteEdges s (j + 1) u ∧ u.input = rest ∧
      (i = .wIdle → (u.head, u.slots) = (t.head, t.slots)) := by
  obtain ⟨ht, hf, hp, ho, ⟨hh, hg, hc⟩, htook⟩ := h
  obtain ⟨u, hstep, hinput, hrst, ⟨hh', hg', hc'⟩, htsync, hidle⟩ := ht.step_wrEdge hf ho hi hin
  obtain ⟨hp', hf'⟩ := parametersNeverChange _ _ hstep
  exact ⟨u, hstep, ⟨everyStepKeepsTheInvariant _ _ ht hstep, hf'.trans hf, hp'.trans hp, hrst,
    ⟨hh'.trans hh, hg'.trans hg, hc'.trans hc⟩, htsync ▸ htook.shiftIn hg⟩, hinput, hidle⟩

/-- After S read edges every stage of `hsync` holds the code of `head`. -/
theorem AfterReadEdges.headSeen_eq (h : AfterReadEdges s s.params.stages t) : t.headSeen = s.head := by
  obtain ⟨ht, -, hp, -, ⟨hh, hg, -⟩, htook⟩ := h
  have hlast := htook.last (by rw [ht.hsync_length, hp]) ht.hsync_ne
  rw [State.headSeen, hlast, ← hg, ht.headG_dec, hh]

/-- After S write edges every stage of `tsync` holds the code of `tail`. -/
theorem AfterWriteEdges.tailSeen_eq (h : AfterWriteEdges s s.params.stages t) : t.tailSeen = s.tail := by
  obtain ⟨ht, -, hp, -, ⟨hh, hg, -⟩, htook⟩ := h
  have hlast := htook.last (by rw [ht.tsync_length, hp]) ht.tsync_ne
  rw [State.tailSeen, hlast, ← hg, ht.tailG_dec, hh]

end

/-- Settles O55: S edges fill all S stages of the chain with the code of an index that stands. -/
theorem indicesAreSeenAfterSEdges : Obligations.IndicesAreSeenAfterSEdges := by
  intro s cmds hs hf hlen
  refine ⟨fun hcmds ho hin => ?read, fun hcmds ho hin => ?write⟩
  case read =>
    have h0 : AfterReadEdges s 0 s := ⟨hs, hf, rfl, ho, ⟨rfl, rfl, rfl⟩, .zero _ _⟩
    obtain ⟨t, hrun, ht, hidle⟩ := run_of_steps (fun j t i rest h => h.step) h0 hcmds hin
    rw [hlen, Nat.zero_add] at ht
    refine ⟨t, hlen ▸ hrun, ht.headSeen_eq, ht.writeRegs, fun h => ?_⟩
    obtain ⟨htail, hslots⟩ := Prod.mk.inj (hidle h)
    exact ⟨htail, fun i => by rw [hslots]⟩
  case write =>
    have h0 : AfterWriteEdges s 0 s := ⟨hs, hf, rfl, ho, ⟨rfl, rfl, rfl⟩, .zero _ _⟩
    obtain ⟨t, hrun, ht, hidle⟩ := run_of_steps (fun j t i rest h => h.step) h0 hcmds hin
    rw [hlen, Nat.zero_add] at ht
    refine ⟨t, hlen ▸ hrun, ht.tailSeen_eq, ht.readRegs, fun h => ?_⟩
    obtain ⟨hhead, hslots⟩ := Prod.mk.inj (hidle h)
    exact ⟨hhead, fun i => by rw [hslots]⟩

end Sys2Proof.Machine

namespace Sys2Proof.Machine

/-! ## Status outputs (44_fifo_status.md R160 to R169) -/

/-- Reading a status output gives the answer, and touches neither part nor the frame. -/
theorem showStatus_frame (s : State) (v : Nat) :
    ∃ t, showStatus s v = .next t ∧ t.answers = s.answers ++ [.shown v] ∧ SameFifo s t ∧ SameCounter s t ∧
      SameFrame s t :=
  ⟨s.giveAnswer (.shown v), rfl, rfl,
    ⟨fun _ => rfl, ⟨rfl, rfl, rfl⟩, ⟨rfl, rfl, rfl⟩, ⟨rfl, rfl, rfl⟩, rfl, rfl⟩, ⟨rfl, rfl, rfl, rfl⟩, .refl s⟩

/-- Settles O30: each of the seven operations is `showStatus` of its output. -/
theorem statusReadsShowAndChangeNothing : Obligations.StatusReadsShowAndChangeNothing := by
  intro s i v h
  have hshow : exec i s = showStatus s v := by
    obtain ⟨rfl, rfl⟩ | ⟨rfl, rfl⟩ | ⟨rfl, rfl⟩ | ⟨rfl, rfl⟩ | ⟨rfl, rfl⟩ | ⟨rfl, rfl⟩ | ⟨rfl, rfl⟩ := h <;> rfl
  rw [hshow]
  exact showStatus_frame s v

/-- IS_EMPTY_R and EMPTY are one output (44_fifo_status.md R164). -/
theorem Inv.rdIsEmpty_eq_empty {s : State} (hs : Inv s) : s.rdIsEmpty = s.empty := by
  rw [Bool.eq_iff_iff, hs.empty_iff, State.rdIsEmpty, beq_iff_eq]

/-- Settles O31: the totals of ring order compare the two sides' lengths, and each flag is its length at an end. -/
theorem statusOutputsBracketTheOccupancy : Obligations.StatusOutputsBracketTheOccupancy := by
  intro s hs
  obtain ⟨hocc, hwr⟩ := hs.totals
  have hring := hs.ring'
  have hwrEmpty (h : s.wrIsEmpty = true) : s.occupancy = 0 := by
    have hzero : s.wrLen = 0 := beq_iff_eq.1 h
    omega
  exact ⟨by omega, by omega, by omega, hs.full_iff, hs.empty_iff, hwrEmpty, hs.rdIsEmpty_eq_empty, hwr, hocc⟩

/-- Settles O43: by the occupancy cell `head` is `Empty`, and cell `tail` is `Full` when there is an item to see, so
each operation takes its accepting branch. -/
theorem optimisticFlagsNeverOccur : Obligations.OptimisticFlagsNeverOccur := by
  intro s hs hl
  refine ⟨fun hf => ⟨hs.head_cell, fun item => ?send⟩, fun he => ?recv⟩
  case send =>
    have hread := Memory.read_insert_of_empty hs.head_cell (s.busItem item)
    exact ⟨_, execSend_next.2 ⟨hl, .inr ⟨hf, hs.head_lt, hs.head_cell, rfl⟩⟩, rfl,
      fun j hj => (hread j).trans (if_neg hj)⟩
  case recv =>
    obtain ⟨d, hd⟩ := hs.tail_cell he
    exact ⟨d, hd, _, execRecv_next.2 ⟨hl, .inr ⟨he, hs.tail_lt, d, hd, rfl⟩⟩, rfl⟩

end Sys2Proof.Machine

namespace Sys2Proof.Machine

/-! ## The counter part (45_counter.md) -/

section
variable {s t u : State} {i : Instr} {p : Nat}

/-! What a counter operation leaves of the state, one rule for each thing the statements speak of. -/

theorem counterNext_ctr (s : State) (p c : Nat) (v : Option Nat) : (counterNext s p c v).ctr = c := by
  cases v <;> rfl

theorem counterNext_ctrPhase (s : State) (p c : Nat) (v : Option Nat) :
    (counterNext s p c v).ctrPhase = s.ctrPhase := by
  cases v <;> rfl

theorem counterNext_ctrRst (s : State) (p c : Nat) (v : Option Nat) : (counterNext s p c v).ctrRst = s.ctrRst := by
  cases v <;> rfl

theorem counterNext_ctrOut (s : State) (p c : Nat) (v : Option Nat) :
    (counterNext s p c v).ctrOut = s.ctrOut.set p v := by
  cases v <;> rfl

/-- The port answers the value, if there is one (45_counter.md R179). -/
theorem counterNext_answers (s : State) (p c : Nat) (v : Option Nat) :
    (counterNext s p c v).answers = s.answers ++ (v.map (Answer.value p)).toList := by
  cases v with
  | none => exact (List.append_nil _).symm
  | some x => rfl

theorem counterNext_ctrAnswer (hp : p < s.ctrOut.length) (c : Nat) (v : Option Nat) :
    (counterNext s p c v).ctrAnswer p = v := by
  rw [State.ctrAnswer, counterNext_ctrOut, List.getElem?_set_self hp, Option.getD_some]

theorem counterNext_ctrAnswer_of_ne {q : Nat} (hq : q ≠ p) (c : Nat) (v : Option Nat) :
    (counterNext s p c v).ctrAnswer q = s.ctrAnswer q := by
  rw [State.ctrAnswer, counterNext_ctrOut, List.getElem?_set_ne hq.symm, State.ctrAnswer]

theorem SameFifo.refl (s : State) : SameFifo s s :=
  ⟨fun _ => rfl, ⟨rfl, rfl, rfl⟩, ⟨rfl, rfl, rfl⟩, ⟨rfl, rfl, rfl⟩, rfl, rfl⟩

theorem SameFifo.trans (h : SameFifo s t) (h' : SameFifo t u) : SameFifo s u := by
  obtain ⟨hc, ⟨hh, hg, ht⟩, ⟨ht', hg', hh'⟩, ⟨hp, hw, hr⟩, ha, ho⟩ := h
  obtain ⟨kc, ⟨kh, kg, kt⟩, ⟨kt', kg', kh'⟩, ⟨kp, kw, kr⟩, ka, ko⟩ := h'
  exact ⟨fun i => (kc i).trans (hc i), ⟨kh.trans hh, kg.trans hg, kt.trans ht⟩,
    ⟨kt'.trans ht', kg'.trans hg', kh'.trans hh'⟩, ⟨kp.trans hp, kw.trans hw, kr.trans hr⟩, ka.trans ha, ko.trans ho⟩

theorem SameFifo.counterNext (s : State) (p c : Nat) (v : Option Nat) : SameFifo s (counterNext s p c v) := by
  cases v <;> exact .refl s

/-! ## The two parts are independent (45_counter.md R184; 70_reset_and_hazards.md R231) -/

/-- Only the operations of a counter port and of the counter's reset pin touch the counter part. -/
theorem SameCounter.of_exec (h : exec i s = .next t) (hk : ∀ p, (encode i).port ≠ .k p)
    (hhk : (encode i).port ≠ .hk) : SameCounter s t := by
  have hn := exec_next h
  cases i with
  | send item => obtain ⟨-, ⟨-, rfl⟩ | ⟨-, -, -, rfl⟩⟩ := execSend_next.1 hn <;> exact ⟨rfl, rfl, rfl, rfl⟩
  | recv => obtain ⟨-, ⟨-, rfl⟩ | ⟨-, -, -, -, rfl⟩⟩ := execRecv_next.1 hn <;> exact ⟨rfl, rfl, rfl, rfl⟩
  | syncH k | syncT k => obtain ⟨-, -, rfl⟩ := hn; exact ⟨rfl, rfl, rfl, rfl⟩
  | ctrNop q | get q | increment q | add q n | swap q v | reset q => exact absurd rfl (hk q)
  | ctrReset | ctrRun => exact absurd rfl hhk
  | _ => cases hn; exact ⟨rfl, rfl, rfl, rfl⟩

/-- An operation of a counter port or of the counter's reset pin leaves the FIFO part alone. -/
theorem SameFifo.of_exec (h : exec i s = .next t) (hport : (∃ p, (encode i).port = .k p) ∨ (encode i).port = .hk) :
    SameFifo s t := by
  have hn := exec_next h
  cases i with
  | ctrNop q => obtain ⟨-, rfl⟩ := hn; exact .refl s
  | get q | increment q | add q n | swap q v | reset q => obtain ⟨-, -, rfl⟩ := hn; exact .counterNext ..
  | ctrReset | ctrRun => cases hn; exact .refl s
  | _ => obtain ⟨_, hp⟩ | hp := hport <;> cases hp

end

/-- Settles O48: each port the statement names belongs to one part, and its operations leave the other part alone. -/
theorem theTwoPartsAreIndependent : Obligations.TheTwoPartsAreIndependent := by
  refine fun s t i hx => ⟨fun hport => ?_, .of_exec hx⟩
  obtain h | h | h | h | h := hport <;> exact .of_exec hx (by simp [h]) (by simp [h])

section
variable {s : State} {i : Instr} {p : Nat}

/-! ## One counter operation (45_counter.md R170 to R176) -/

/-- No port answers where every port's pins were cleared. -/
theorem ctrAnswer_of_replicate {n : Nat} (h : s.ctrOut = List.replicate n none) (p : Nat) : s.ctrAnswer p = none := by
  rw [State.ctrAnswer, h, List.getElem?_replicate]
  split <;> rfl

theorem port_lt_of_wellFormed {params : Params} (hport : (encode i).port = .k p)
    (hwf : i.wellFormed params = true) : p < params.ports := by
  cases i with
  | ctrNop q | get q | increment q | reset q => cases hport; exact of_decide_eq_true hwf
  | add q n | swap q n => cases hport; exact of_decide_eq_true (Bool.and_eq_true_iff.1 hwf).1
  | _ => cases hport

theorem counterOp_eq (hp : p < s.params.ports) (hl : s.ctrPhase = .live) (c : Nat) (v : Option Nat) :
    counterOp s p c v = .next (counterNext s p c v) :=
  counterOp_next.2 ⟨hp, hl, rfl⟩

/-- Every well-formed operation of a counter port completes on a `Live` counter: the value becomes `valueAfter`, and
the port answers `valueAnswered`. -/
theorem exec_counter (hport : (encode i).port = .k p) (hwf : i.wellFormed s.params = true)
    (hl : s.ctrPhase = .live) :
    exec i s = .next (counterNext s p (valueAfter s.params.cw s.ctr i) (valueAnswered s.ctr i)) := by
  have hp := port_lt_of_wellFormed hport hwf
  cases i with
  | ctrNop q => cases hport; exact if_pos hp
  | get q => cases hport; exact counterOp_eq hp hl s.ctr (some s.ctr)
  | increment q => cases hport; exact counterOp_eq hp hl ((s.ctr + 1) % 2 ^ s.params.cw) none
  | add q n =>
    cases hport
    have hsum : s.busCount (s.ctr + s.busCount n) = (s.ctr + n) % 2 ^ s.params.cw := Nat.add_mod_mod ..
    have hop := counterOp_eq hp hl (s.busCount (s.ctr + s.busCount n)) none
    exact hop.trans (by rw [hsum]; rfl)
  | swap q v =>
    cases hport
    have hbus : s.busCount v = v := Nat.mod_eq_of_lt (of_decide_eq_true (Bool.and_eq_true_iff.1 hwf).2)
    have hop := counterOp_eq hp hl (s.busCount v) (some s.ctr)
    exact hop.trans (by rw [hbus]; rfl)
  | reset q => cases hport; exact counterOp_eq hp hl 0 none
  | _ => cases hport

end

/-- Settles O13: the bus passes an INIT of CW bits whole, and every other field is as CTR_RESET writes or leaves it. -/
theorem ctrResetLoadsInit : Obligations.CtrResetLoadsInit := fun s hinit =>
  have hx : exec .ctrReset s = .next s.resetCtr := rfl
  ⟨_, hx, Nat.mod_eq_of_lt hinit, rfl, ctrAnswer_of_replicate rfl, .of_exec hx (.inr rfl), .of_exec hx, rfl⟩

/-- Settles O25: both operations are `exec_counter` with the old value as the answer. -/
theorem getAndSwapAnswerTheValue : Obligations.GetAndSwapAnswerTheValue := by
  intro s p hl hp hlen
  have hout : p < s.ctrOut.length := hlen ▸ hp
  refine ⟨?get, fun v hv => ?swap⟩
  case get =>
    have hx : exec (.get p) s = .next (counterNext s p s.ctr (some s.ctr)) :=
      exec_counter (i := .get p) rfl (decide_eq_true hp) hl
    exact ⟨_, hx, rfl, rfl, counterNext_ctrAnswer hout .., fun q hq => counterNext_ctrAnswer_of_ne hq .., rfl, rfl,
      .counterNext .., .of_exec hx⟩
  case swap =>
    have hx : exec (.swap p v) s = .next (counterNext s p v (some s.ctr)) :=
      exec_counter (i := .swap p v) rfl (Bool.and_eq_true_iff.2 ⟨decide_eq_true hp, decide_eq_true hv⟩) hl
    exact ⟨_, hx, rfl, rfl, counterNext_ctrAnswer hout .., fun q hq => counterNext_ctrAnswer_of_ne hq .., rfl, rfl,
      .counterNext .., .of_exec hx⟩

/-- Settles O26: the three operations are `exec_counter` with no answer. -/
theorem incrementAddAndResetAnswerNothing : Obligations.IncrementAddAndResetAnswerNothing := by
  intro s p hl hp i c hi
  have hx : exec i s = .next (counterNext s p c none) := by
    obtain ⟨rfl, rfl⟩ | ⟨n, hn, rfl, rfl⟩ | ⟨rfl, rfl⟩ := hi
    · exact exec_counter (i := .increment p) rfl (decide_eq_true hp) hl
    · exact exec_counter (i := .add p n) rfl (Bool.and_eq_true_iff.2 ⟨decide_eq_true hp, decide_eq_true hn⟩) hl
    · exact exec_counter (i := .reset p) rfl (decide_eq_true hp) hl
  exact ⟨_, hx, rfl, rfl, setCtrOut_none_ctrAnswer _ p, fun q hq => counterNext_ctrAnswer_of_ne hq .., rfl, rfl,
    .counterNext .., .of_exec hx⟩

section
variable {s t u : State} {i : Instr} {is : List Instr} {params : Params} {m : Nat}

/-! ## The counting law (45_counter.md R182) -/

theorem execAll_cons : execAll (i :: is) s = some u ↔ ∃ t, exec i s = .next t ∧ execAll is t = some u := by
  rw [execAll]
  cases exec i s <;> simp

/-- The operations the counting law counts. -/
def isIncrement : Instr → Bool
  | .increment _ => true
  | _ => false

/-- The operations the counting law lets a run hold: none that sets the counter, or adds to it otherwise than by
INCREMENT. -/
def KeepsCount (i : Instr) : Prop :=
  (∀ q n, i ≠ .add q n) ∧ (∀ q v, i ≠ .swap q v) ∧ (∀ q, i ≠ .reset q) ∧ i ≠ .ctrReset

/-- Under the parameters `params`, the counter is `Live` and has counted `m`. -/
def Counted (params : Params) (m : Nat) (s : State) : Prop :=
  s.params = params ∧ s.ctrPhase = .live ∧ s.ctr = m % 2 ^ params.cw

/-- What keeps the counter's value and leaves it `Live` keeps the count. -/
theorem Counted.of_same (h : Counted params m s) (hf : SameFrame s t) (hl : t.ctrPhase = .live) (hc : t.ctr = s.ctr) :
    Counted params m t := by
  obtain ⟨hp, -, hm⟩ := h
  obtain ⟨hp', -⟩ := hf
  exact ⟨hp'.trans hp, hl, hc.trans hm⟩

/-- An INCREMENT is counted once, and no other operation the law allows is counted. -/
theorem Counted.of_exec (h : Counted params m s) (hi : KeepsCount i) (hx : exec i s = .next t) :
    Counted params (m + if isIncrement i then 1 else 0) t := by
  have hf : SameFrame s t := .of_exec hx
  have hn := exec_next hx
  obtain ⟨hadd, hswap, hreset, hctrReset⟩ := hi
  have ⟨hp, hl, hm⟩ := h
  cases i with
  | add q n => exact absurd rfl (hadd q n)
  | swap q v => exact absurd rfl (hswap q v)
  | reset q => exact absurd rfl (hreset q)
  | ctrReset => exact absurd rfl hctrReset
  | increment q =>
    obtain ⟨-, -, rfl⟩ := hn
    exact ⟨hp, hl, by rw [counterNext_ctr, State.busCount, hp, hm, Nat.mod_add_mod]; rfl⟩
  | get q => obtain ⟨-, -, rfl⟩ := hn; exact h.of_same hf hl rfl
  | ctrNop q => obtain ⟨-, rfl⟩ := hn; exact h.of_same hf hl rfl
  | ctrRun => cases hn; exact h.of_same hf rfl rfl
  | _ =>
    obtain ⟨hc, hl', -, -⟩ := SameCounter.of_exec hx nofun nofun
    exact h.of_same hf (hl'.trans hl) hc

/-- Over a run the INCREMENTs are counted. -/
theorem Counted.of_execAll (h : Counted params m s) (his : ∀ i ∈ is, KeepsCount i) (hx : execAll is s = some u) :
    Counted params (m + is.countP isIncrement) u := by
  induction is generalizing s m with
  | nil => cases hx; exact h
  | cons i is ih =>
    obtain ⟨hi, his⟩ := List.forall_mem_cons.1 his
    obtain ⟨t, ht, hu⟩ := execAll_cons.1 hx
    rw [List.countP_cons, Nat.add_comm (is.countP _), ← Nat.add_assoc]
    exact ih (h.of_exec hi ht) his hu

end

/-- Settles O28: `Counted` counts the run's INCREMENTs from 0, and the GET after it answers the value. -/
theorem incrementsAreCountedExactly : Obligations.IncrementsAreCountedExactly := by
  intro is s u p hc hl hp his hx
  have hs : Counted s.params 0 s := ⟨rfl, hl, hc.trans (Nat.zero_mod _).symm⟩
  obtain ⟨hparams, hlu, hctr⟩ := hs.of_execAll his hx
  rw [Nat.zero_add] at hctr
  have hget : exec (.get p) u = .next (counterNext u p u.ctr (some u.ctr)) :=
    exec_counter (i := .get p) rfl (decide_eq_true (hparams ▸ hp)) hlu
  exact ⟨_, hget, congrArg (fun c => u.answers ++ [Answer.value p c]) hctr⟩

section
variable {s t : State} {i : Instr} {is : List Instr} {p : Nat}

/-! ## Several ports at one counter edge (45_counter.md R180) -/

/-- What operations of counter ports, taken one after another, have made of the state `s` they began in. -/
structure AfterCommands (is : List Instr) (s t : State) : Prop where
  ctr_eq : t.ctr = valueAfterAll s.params.cw s.ctr is
  answers_eq : t.answers = s.answers ++ answersOfAll s.params.cw s.ctr is
  own : ∀ before i after p, is = before ++ i :: after → (encode i).port = .k p →
    t.ctrAnswer p = valueAnswered (valueAfterAll s.params.cw s.ctr before) i
  others : ∀ p, (∀ i ∈ is, (encode i).port ≠ .k p) → t.ctrAnswer p = s.ctrAnswer p
  ctrPhase_eq : t.ctrPhase = s.ctrPhase
  ctrRst_eq : t.ctrRst = s.ctrRst
  fifo : SameFifo s t
  frame : SameFrame s t

theorem AfterCommands.nil (s : State) : AfterCommands [] s s where
  ctr_eq := rfl
  answers_eq := (List.append_nil _).symm
  own before i after p h := by cases before <;> cases h
  others _ _ := rfl
  ctrPhase_eq := rfl
  ctrRst_eq := rfl
  fifo := .refl s
  frame := .refl s

theorem answersOfAll_cons (hport : (encode i).port = .k p) (cw c : Nat) (is : List Instr) :
    answersOfAll cw c (i :: is) =
      ((valueAnswered c i).map (Answer.value p)).toList ++ answersOfAll cw (valueAfter cw c i) is := by
  rw [answersOfAll, counterPort_of_port (l := lineOf i) hport]
  cases valueAnswered c i <;> rfl

/-- One command before others on other ports: it finds the value of before, they find the value it leaves, and none of
them touches its port's pins. -/
theorem AfterCommands.cons (hport : (encode i).port = .k p) (hout : p < s.ctrOut.length)
    (hother : ∀ j ∈ is, (encode j).port ≠ .k p)
    (h : AfterCommands is (counterNext s p (valueAfter s.params.cw s.ctr i) (valueAnswered s.ctr i)) t) :
    AfterCommands (i :: is) s t := by
  have hhead := SameFrame.counterNext s p (valueAfter s.params.cw s.ctr i) (valueAnswered s.ctr i)
  have ⟨hparams, _⟩ := hhead
  obtain ⟨hctr, hanswers, hown, hothers, hphase, hrst, hfifo, hframe⟩ := h
  rw [hparams, counterNext_ctr] at hctr hanswers hown
  rw [counterNext_answers, List.append_assoc, ← answersOfAll_cons hport] at hanswers
  refine ⟨hctr, hanswers, ?own, ?others, hphase.trans (counterNext_ctrPhase ..), hrst.trans (counterNext_ctrRst ..),
    (SameFifo.counterNext ..).trans hfifo, hhead.trans hframe⟩
  case own =>
    intro before j after q his hj
    cases before with
    | nil =>
      obtain ⟨rfl, rfl⟩ := List.cons.inj his
      cases hport.symm.trans hj
      exact (hothers p hother).trans (counterNext_ctrAnswer hout ..)
    | cons k before =>
      obtain ⟨rfl, htail⟩ := List.cons.inj his
      exact hown before j after q htail hj
  case others =>
    intro q hq
    obtain ⟨hi, his⟩ := List.forall_mem_cons.1 hq
    have hne : q ≠ p := by rintro rfl; exact hi hport
    exact (hothers q his).trans (counterNext_ctrAnswer_of_ne hne ..)

/-- Well-formed commands of distinct counter ports of a `Live` counter all take effect, one after another. -/
theorem eachLine_afterCommands (hl : s.ctrPhase = .live) (hout : s.ctrOut.length = s.params.ports)
    (his : ∀ i ∈ is, i.wellFormed s.params = true ∧ ∃ p, (encode i).port = .k p)
    (hnodup : (is.map fun i => (encode i).port).Nodup) :
    ∃ t, eachLine runLine (is.map lineOf) s = .next t ∧ AfterCommands is s t := by
  induction is generalizing s with
  | nil => exact ⟨s, rfl, .nil s⟩
  | cons i is ih =>
    obtain ⟨⟨hwf, p, hport⟩, his⟩ := List.forall_mem_cons.1 his
    obtain ⟨hfresh, hnodup⟩ := List.nodup_cons.1 hnodup
    have hrun := (runLine_eq (l := lineOf i) rfl (decode_encode i) s).trans (exec_counter hport hwf hl)
    obtain ⟨hparams, -⟩ := SameFrame.counterNext s p (valueAfter s.params.cw s.ctr i) (valueAnswered s.ctr i)
    obtain ⟨t, ht, hafter⟩ := ih (hl := (counterNext_ctrPhase ..).trans hl)
      (hout := by rw [counterNext_ctrOut, List.length_set, hout, hparams]) (his := by rwa [hparams]) hnodup
    have hother (j : Instr) (hj : j ∈ is) : (encode j).port ≠ .k p := fun h =>
      hfresh (List.mem_map.2 ⟨j, hj, h.trans hport.symm⟩)
    exact ⟨t, andThen_next.2 ⟨_, hrun, ht⟩, hafter.cons hport (hout ▸ port_lt_of_wellFormed hport hwf) hother⟩

theorem map_k_counterPorts (his : ∀ i ∈ is, ∃ p, (encode i).port = .k p) :
    ((is.map lineOf).filterMap counterPort).map Port.k = is.map fun i => (encode i).port := by
  induction is with
  | nil => rfl
  | cons i is ih =>
    obtain ⟨⟨p, hport⟩, his⟩ := List.forall_mem_cons.1 his
    rw [List.map_cons, List.filterMap_cons_some (counterPort_of_port (l := lineOf i) hport), List.map_cons, ih his,
      List.map_cons, hport]

/-- Out of reset a counter edge runs the commands of distinct counter ports one after another, no port answering at
first. -/
theorem ctrEdge_eq_eachLine (hrst : s.ctrRst = .out) (his : ∀ i ∈ is, ∃ p, (encode i).port = .k p)
    (hnodup : (is.map fun i => (encode i).port).Nodup) :
    ctrEdge (is.map lineOf) s =
      eachLine runLine (is.map lineOf) { s with ctrOut := List.replicate s.params.ports none } := by
  have hall : ((is.map lineOf).all fun l => (counterPort l).isSome) = true := by
    simp only [List.all_map, List.all_eq_true, Function.comp_apply]
    intro i hi
    obtain ⟨p, hport⟩ := his i hi
    rw [counterPort_of_port (l := lineOf i) hport]
    rfl
  have hports : ((is.map lineOf).filterMap counterPort).Nodup := .of_map Port.k (map_k_counterPorts his ▸ hnodup)
  rw [ctrEdge, if_pos hall, if_pos hports, State.ctrEdgeStart, ctrResetEdge_out hrst]
  exact if_pos hrst

end

/-- Settles O29: the commands run from a state in which no port answers, and `AfterCommands` says what they leave. -/
theorem simultaneousCountsAreNotLost : Obligations.SimultaneousCountsAreNotLost := by
  intro s is hl hrst his hnodup
  obtain ⟨t, ht, h⟩ := eachLine_afterCommands (s := { s with ctrOut := List.replicate s.params.ports none }) hl
    List.length_replicate his hnodup
  have hedge := ctrEdge_eq_eachLine hrst (fun i hi => (his i hi).2) hnodup
  exact ⟨t, hedge.trans ht, h.ctr_eq, h.answers_eq, h.own,
    fun p hp => (h.others p hp).trans (ctrAnswer_of_replicate rfl p), h.ctrPhase_eq, h.ctrRst_eq, h.fifo, h.frame⟩

end Sys2Proof.Machine

namespace Sys2Proof.Machine

/-! ## SEND and RECV in either order (60_exceptions.md R209) -/

namespace Memory
variable {m : Memory} {i j : Nat}

theorem erase_cons (a e : Nat) (m : Memory) (j : Nat) :
    Memory.erase ((a, e) :: m) j = if a = j then Memory.erase m j else (a, e) :: Memory.erase m j := by
  by_cases h : a = j <;> simp [Memory.erase, h]

/-- An item stored below every entry comes first. -/
theorem insert_of_lt (h : ∀ e ∈ m, i < e.1) (d : Nat) : Memory.insert m i d = (i, d) :: m := by
  cases m with
  | nil => rfl
  | cons x m => exact if_pos (h x List.mem_cons_self)

/-- To fill one cell and to empty another give the same canonical array in either order. -/
theorem erase_insert_of_ne (h : m.wf) (hij : i ≠ j) (d : Nat) :
    Memory.erase (Memory.insert m i d) j = Memory.insert (Memory.erase m j) i d := by
  induction m with
  | nil => exact (erase_cons i d [] j).trans (if_neg hij)
  | cons x m ih =>
    obtain ⟨a, e⟩ := x
    obtain ⟨hhead, hm⟩ := List.pairwise_cons.1 h
    obtain hlt | rfl | hgt := lt_trichotomy i a
    · have hbelow : ∀ y ∈ (a, e) :: m, i < y.1 := List.forall_mem_cons.2 ⟨hlt, fun y hy => hlt.trans (hhead y hy)⟩
      have hbelow' : ∀ y ∈ Memory.erase ((a, e) :: m) j, i < y.1 := fun y hy => hbelow y (List.mem_of_mem_filter hy)
      rw [insert_of_lt hbelow, insert_of_lt hbelow', erase_cons, if_neg hij]
    · simp [Memory.insert, erase_cons, hij]
    · have hins (m : Memory) : Memory.insert ((a, e) :: m) i d = (a, e) :: Memory.insert m i d := by
        simp [Memory.insert, hgt.not_gt, hgt.ne']
      rw [hins, erase_cons, erase_cons, ih hm]
      split
      · rfl
      · rw [hins]

end Memory

section
variable {s : State}

theorem exec_recv_of_empty (hl : s.fifoPhase = .live) (he : s.empty = true) :
    exec .recv s = .next ((s.answerR none).giveAnswer .noneItem) :=
  execRecv_next.2 ⟨hl, .inl ⟨he, rfl⟩⟩

/-- Past the flag a SEND is accepted, cell `head` being `Empty`. -/
theorem Inv.exec_send_of_not_full (hs : Inv s) (hl : s.fifoPhase = .live) (hf : s.full = false) (item : Nat) :
    exec (.send item) s = .next (((s.publishHead (s.busItem item)).ackW true).giveAnswer .ok) :=
  execSend_next.2 ⟨hl, .inr ⟨hf, hs.head_lt, hs.head_cell, rfl⟩⟩

theorem Inv.exec_recv_of_full_cell (hs : Inv s) (hl : s.fifoPhase = .live) (he : s.empty = false) {d : Nat}
    (hc : s.slots.read s.tail = .full d) :
    exec .recv s = .next ((s.publishTail.answerR (some d)).giveAnswer (.someItem d)) :=
  execRecv_next.2 ⟨hl, .inr ⟨he, hs.tail_lt, d, hc, rfl⟩⟩

/-- The two publications write registers of their own and, while `head` and `tail` differ, cells of their own. -/
theorem Inv.publishTail_publishHead (hs : Inv s) (hne : s.head ≠ s.tail) (d : Nat) :
    (s.publishHead d).publishTail = s.publishTail.publishHead d :=
  congrArg (fun m : Memory => { (s.publishHead d).publishTail with slots := m })
    (Memory.erase_insert_of_ne hs.slots_wf hne d)

end

/-- Settles O45: neither operation moves the other's flag, so each takes the same branch in both orders; when both are
accepted the cells differ, and the publications commute. -/
theorem sendAndRecvCommute : Obligations.SendAndRecvCommute := by
  intro s item hs hl
  cases hf : s.full with
  | true =>
    have hsend : exec (.send item) s = .next ((s.ackW false).giveAnswer (.fullItem (s.busItem item))) :=
      execSend_next.2 ⟨hl, .inl ⟨hf, rfl⟩⟩
    cases he : s.empty with
    | true =>
      have hrecv := exec_recv_of_empty hl he
      exact ⟨_, _, _, _, hsend, exec_recv_of_empty hl he, hrecv, execSend_next.2 ⟨hl, .inl ⟨hf, rfl⟩⟩, rfl⟩
    | false =>
      obtain ⟨d, hd⟩ := hs.tail_cell he
      have hrecv := hs.exec_recv_of_full_cell hl he hd
      exact ⟨_, _, _, _, hsend, (hs.of_exec hsend).exec_recv_of_full_cell hl he hd, hrecv,
        execSend_next.2 ⟨hl, .inl ⟨hf, rfl⟩⟩, rfl⟩
  | false =>
    have hsend := hs.exec_send_of_not_full hl hf item
    cases he : s.empty with
    | true =>
      have hrecv := exec_recv_of_empty hl he
      exact ⟨_, _, _, _, hsend, exec_recv_of_empty hl he, hrecv,
        (hs.of_exec hrecv).exec_send_of_not_full hl hf item, rfl⟩
    | false =>
      obtain ⟨d, hd⟩ := hs.tail_cell he
      have hrecv := hs.exec_recv_of_full_cell hl he hd
      have hne := sidesNeverTouchTheSameCell s hs hf he
      have hd' : Memory.read (s.slots.write s.head (.full (s.busItem item))) s.tail = .full d := by
        rw [Memory.read_write hs.slots_wf, if_neg hne.symm, hd]
      have hcomm := hs.publishTail_publishHead hne (s.busItem item)
      exact ⟨_, _, _, _, hsend, (hs.of_exec hsend).exec_recv_of_full_cell hl he hd', hrecv,
        (hs.of_exec hrecv).exec_send_of_not_full hl hf item,
        congrArg (fun u : State => { (u.ackW true).answerR (some d) with answers := [] }) hcomm⟩

/-! ## Ports driven by another agent (60_exceptions.md R204, R206, R214) -/

section
variable {l : Line} {r : Refusal}

theorem lineOperation_of_roleRefusal (h : roleRefusal l.agent l.offer.port = some r) : lineOperation l = .error r := by
  rw [lineOperation, h]

/-- What stands for no operation a write edge refuses, in reset or not. -/
theorem wrEdge_of_error (hp : l.offer.port = .w) (h : lineOperation l = .error r) (s : State) :
    wrEdge l s = .refused r := by
  simp [wrEdge, wrCommand, hp, runLine_of_error h, ignoreLine_of_error h, andThen]

/-- What stands for no operation a read edge refuses, in reset or not. -/
theorem rdEdge_of_error (hp : l.offer.port = .r) (h : lineOperation l = .error r) (s : State) :
    rdEdge l s = .refused r := by
  simp [rdEdge, rdCommand, hp, runLine_of_error h, ignoreLine_of_error h, andThen]

end

/-- Settles O8: an agent that is not the port's own has no operation there, which every line and every edge asks for
first. -/
theorem otherDriversAreRefused : Obligations.OtherDriversAreRefused := by
  intro s a cmd bus
  have hline (port : Port) {r : Refusal} (h : roleRefusal a port = some r) :
      lineOperation ⟨a, ⟨port, cmd, bus⟩⟩ = .error r := lineOperation_of_roleRefusal h
  have hrun {port : Port} {r : Refusal} (h : roleRefusal a port = some r) :
      runLine ⟨a, ⟨port, cmd, bus⟩⟩ s = .refused r := runLine_of_error (hline port h) s
  exact ⟨fun ha => ⟨hrun (if_neg ha), wrEdge_of_error rfl (hline .w (if_neg ha)) s⟩,
    fun ha => ⟨hrun (if_neg ha), rdEdge_of_error rfl (hline .r (if_neg ha)) s⟩,
    fun p ha => ⟨hrun (if_neg ha), ctrEdge_singleton_of_error rfl (hline (.k p) (if_neg ha)) s⟩,
    fun _ ha => hrun (if_neg ha), fun _ ha => hrun (if_neg ha), fun ha => ⟨hrun (if_neg ha), hrun (if_neg ha)⟩,
    fun ha => hrun (if_neg ha), fun ha => hrun (if_neg ha)⟩

/-! ## Operations in reset (60_exceptions.md R204; 70_reset_and_hazards.md R237) -/

theorem counterOp_inReset {s : State} {p : Nat} (hp : p < s.params.ports) (h : s.ctrPhase = .inReset) (c : Nat)
    (v : Option Nat) : counterOp s p c v = .refused .operationInReset := by
  rw [counterOp, if_pos hp, h]

/-- Settles O15: each operation of the FIFO asks its phase first, and each of a counter port, once the port exists, the
counter's. -/
theorem operationsInResetAreRefused : Obligations.OperationsInResetAreRefused := by
  refine fun s => ⟨fun h i hi => ?fifo, fun h p hp i hi => ?counter⟩
  case fifo => obtain rfl | ⟨d, rfl⟩ | ⟨k, rfl⟩ | ⟨k, rfl⟩ := hi <;> exact whileFifoLive_inReset h _
  case counter =>
    have hop := counterOp_inReset hp h
    obtain rfl | rfl | rfl | ⟨n, rfl⟩ | ⟨v, rfl⟩ := hi
    · exact hop s.ctr (some s.ctr)
    · exact hop (s.busCount (s.ctr + 1)) none
    · exact hop 0 none
    · exact hop (s.busCount (s.ctr + s.busCount n)) none
    · exact hop (s.busCount v) (some s.ctr)

end Sys2Proof.Machine

namespace Sys2Proof.Machine

/-! ## Steps with nothing to run (60_exceptions.md R205; 70_reset_and_hazards.md R235) -/

theorem step_of_no_input {s : State} (hf : s.faulted = []) (hin : s.input = []) : step s = .next (s.consume []) := by
  simp [step, hf, hin]

theorem step_of_faulted {s : State} {f : Fault} {fs : List Fault} (h : s.faulted = f :: fs) : step s = .fault f := by
  simp [step, h]

/-- Settles O7: with nothing offered the step moves the model's own fields alone, which `consume` says. -/
theorem stepWithNothingOfferedOrFaulted : Obligations.StepWithNothingOfferedOrFaulted :=
  ⟨fun s hf hin => ⟨s.consume [], step_of_no_input hf hin, .refl s, ⟨rfl, rfl, rfl, rfl⟩, rfl, hf⟩,
    fun _ _ _ h => step_of_faulted h⟩

/-! ## FIFO_RESET (70_reset_and_hazards.md R230) -/

section
variable (s : State)

theorem resetFifo_empty : s.resetFifo.empty = true := by
  rw [State.empty, resetFifo_headSeen]
  rfl

/-- The next write index after reset is `1 mod CAP`, which is `tail_seen` only in a ring of one cell. -/
theorem resetFifo_full : s.resetFifo.full = decide (s.resetFifo.cap = 1) := by
  rw [State.full, resetFifo_tailSeen, Bool.eq_iff_iff, beq_iff_eq, decide_eq_true_iff]
  exact Nat.one_mod_eq_zero_iff

theorem resetFifo_wrLen : s.resetFifo.wrLen = 0 := by
  rw [State.wrLen, resetFifo_tailSeen]
  exact dist_self s.cap_pos

theorem resetFifo_rdLen : s.resetFifo.rdLen = 0 := by
  rw [State.rdLen, resetFifo_headSeen]
  exact dist_self s.cap_pos

theorem resetFifo_wrIsEmpty : s.resetFifo.wrIsEmpty = true := beq_iff_eq.2 (resetFifo_wrLen s)

theorem resetFifo_rdIsEmpty : s.resetFifo.rdIsEmpty = true := beq_iff_eq.2 (resetFifo_rdLen s)

end

/-- Settles O12: the registers are as `resetFifo` writes them, and the flags and lengths follow from both seen indices
being 0. -/
theorem fifoResetLeavesResetValues : Obligations.FifoResetLeavesResetValues := fun s =>
  have hx : exec .fifoReset s = .next s.resetFifo := rfl
  ⟨s.resetFifo, hx, fun _ => rfl, rfl, rfl, rfl, rfl, rfl, rfl, resetFifo_headSeen s, resetFifo_tailSeen s, rfl,
    resetFifo_empty s, resetFifo_rdIsEmpty s, resetFifo_wrIsEmpty s, resetFifo_full s, resetFifo_wrLen s,
    resetFifo_rdLen s, rfl, rfl, rfl, .of_exec hx nofun nofun, .of_exec hx, rfl, _, rfl, rfl⟩

/-! ## The reset pins (70_reset_and_hazards.md R231 to R233, R236) -/

theorem RstSync.pinHigh_of_ne_held {r : RstSync} (h : r ≠ .held) : r.pinHigh = r := by
  cases r with
  | held => exact absurd rfl h
  | noEdge | oneEdge | out => rfl

theorem fifoPins_low (s : State) : fifoPins false false s = exec .fifoReset s := rfl

theorem fifoPins_high (s : State) :
    fifoPins true true s = .next { s with wrRst := s.wrRst.pinHigh, rdRst := s.rdRst.pinHigh } := rfl

/-- A write pin may be high over a read pin only while the read domain is still held. -/
theorem fifoPins_wrHigh (s : State) : fifoPins true false s =
    if s.rdRst = .held then .next { s with wrRst := s.wrRst.pinHigh } else .refused .partialReset := by
  by_cases h : s.rdRst = .held <;> simp [fifoPins, h]

/-- A read pin may be high over a write pin only while the write domain is still held. -/
theorem fifoPins_rdHigh (s : State) : fifoPins false true s =
    if s.wrRst = .held then .next { s with rdRst := s.rdRst.pinHigh } else .refused .partialReset := by
  by_cases h : s.wrRst = .held <;> simp [fifoPins, h]

/-- Settles O18: a domain out of reset is not held, so its pin may not be low under the other. -/
theorem partialResetOfARunningFifoIsRefused : Obligations.PartialResetOfARunningFifoIsRefused := fun s hw hr =>
  ⟨(fifoPins_rdHigh s).trans (if_neg (by simp [hw])), (fifoPins_wrHigh s).trans (if_neg (by simp [hr])), fifoPins_low s⟩

/-! ## Edges of a FIFO domain in reset (70_reset_and_hazards.md R232, R236, R237) -/

section
variable {s t : State} {l : Line}

theorem port_of_counterPort {p : Nat} (h : counterPort l = some p) : l.offer.port = .k p := by
  obtain ⟨a, port, cmd, bus⟩ := l
  cases port <;> cases h
  rfl

/-- A command of a FIFO port is ignored when it is one of the port's own agent. -/
theorem ignoreLine_fifoPort (ha : l.agent = l.offer.port.driver) (hd : ∃ i, decode l.offer = .ok i)
    (hk : ∀ p, l.offer.port ≠ .k p) (s : State) : ignoreLine l s = .next s :=
  ignoreLine_next.2 ⟨ha, hd, fun p hp => absurd (port_of_counterPort hp) (hk p), rfl⟩

/-- Before its second edge the write domain's edge counts towards its release, and does no more. -/
theorem wrResetEdge_inReset (h : s.wrRst = .held ∨ s.wrRst = .noEdge) :
    s.wrResetEdge = { s with wrRst := s.wrRst.afterEdge } ∧ s.wrResetEdge.wrRst ≠ .out := by
  unfold State.wrResetEdge
  obtain h | h := h <;> rw [h] <;> exact ⟨rfl, nofun⟩

/-- Before its second edge the read domain's edge counts towards its release, and does no more. -/
theorem rdResetEdge_inReset (h : s.rdRst = .held ∨ s.rdRst = .noEdge) :
    s.rdResetEdge = { s with rdRst := s.rdRst.afterEdge } ∧ s.rdResetEdge.rdRst ≠ .out := by
  unfold State.rdResetEdge
  obtain h | h := h <;> rw [h] <;> exact ⟨rfl, nofun⟩

/-- A `wr_edge` of a domain in reset ignores P's command and does not shift. -/
theorem wrEdge_inReset (h : s.wrRst = .held ∨ s.wrRst = .noEdge) :
    wrEdge l s = .next t ↔ l.agent = .p ∧ l.offer.port = .w ∧ (∃ i, decode l.offer = .ok i) ∧
      t = { s with wrRst := s.wrRst.afterEdge, wrAck := false } := by
  obtain ⟨hedge, hne⟩ := wrResetEdge_inReset h
  have hstay : (s.wrResetEdge.ackW false).shiftTail s.tailG = { s with wrRst := s.wrRst.afterEdge, wrAck := false } :=
    (if_neg hne).trans (congrArg (State.ackW · false) hedge)
  constructor
  · intro he
    obtain ⟨u, hu, ht⟩ := andThen_next.1 he
    obtain ⟨hp, ⟨ho, -⟩ | ⟨-, ha, hd, rfl⟩⟩ := wrCommand_next hu
    · exact absurd ho hne
    · exact ⟨ha, hp, hd, (next_inj.1 ht).symm.trans hstay⟩
  · rintro ⟨ha, hp, hd, rfl⟩
    have hcommand : wrCommand l s = .next (s.wrResetEdge.ackW false) := by
      rw [wrCommand, if_pos hp, if_neg hne, ignoreLine_fifoPort (by rw [ha, hp]; rfl) hd (by simp [hp])]
    exact andThen_next.2 ⟨_, hcommand, congrArg _ hstay⟩

/-- A `rd_edge` of a domain in reset ignores C's command and does not shift. -/
theorem rdEdge_inReset (h : s.rdRst = .held ∨ s.rdRst = .noEdge) :
    rdEdge l s = .next t ↔ l.agent = .c ∧ l.offer.port = .r ∧ (∃ i, decode l.offer = .ok i) ∧
      t = { s with rdRst := s.rdRst.afterEdge, rdOut := none } := by
  obtain ⟨hedge, hne⟩ := rdResetEdge_inReset h
  have hstay : (s.rdResetEdge.answerR none).shiftHead s.headG = { s with rdRst := s.rdRst.afterEdge, rdOut := none } :=
    (if_neg hne).trans (congrArg (State.answerR · none) hedge)
  constructor
  · intro he
    obtain ⟨u, hu, ht⟩ := andThen_next.1 he
    obtain ⟨hp, ⟨ho, -⟩ | ⟨-, ha, hd, rfl⟩⟩ := rdCommand_next hu
    · exact absurd ho hne
    · exact ⟨ha, hp, hd, (next_inj.1 ht).symm.trans hstay⟩
  · rintro ⟨ha, hp, hd, rfl⟩
    have hcommand : rdCommand l s = .next (s.rdResetEdge.answerR none) := by
      rw [rdCommand, if_pos hp, if_neg hne, ignoreLine_fifoPort (by rw [ha, hp]; rfl) hd (by simp [hp])]
    exact andThen_next.2 ⟨_, hcommand, congrArg _ hstay⟩

/-- The second edge of the write domain is an edge of the domain out of reset, the FIFO `Live`. -/
theorem wrEdge_of_oneEdge (h : s.wrRst = .oneEdge) (l : Line) :
    wrEdge l s = wrEdge l { s with fifoPhase := .live, wrRst := .out } := by
  have hedge : s.wrResetEdge = { s with fifoPhase := .live, wrRst := .out } := by rw [State.wrResetEdge, h]
  rw [wrEdge, wrCommand, hedge]
  rfl

/-- The second edge of the read domain is an edge of the domain out of reset, the FIFO `Live`. -/
theorem rdEdge_of_oneEdge (h : s.rdRst = .oneEdge) (l : Line) :
    rdEdge l s = rdEdge l { s with fifoPhase := .live, rdRst := .out } := by
  have hedge : s.rdResetEdge = { s with fifoPhase := .live, rdRst := .out } := by rw [State.rdResetEdge, h]
  rw [rdEdge, rdCommand, hedge]
  rfl

/-- A write edge out of reset touches no phase and no reset of the FIFO. -/
theorem SameFifoLife.of_wrEdge (ho : s.wrRst = .out) (h : wrEdge l s = .next t) : SameFifoLife s t := by
  obtain ⟨u, hu, ht⟩ := andThen_next.1 h
  have hlife : SameFifoLife s u := by
    obtain ⟨-, ⟨-, -, i, hd, -⟩ | ⟨-, -, ⟨i, hd⟩, -⟩⟩ := wrCommand_next hu <;> exact (exec_of_wrCommand ho hd hu).2
  cases ht
  obtain he | he := shiftTail_cases u s.tailG <;> rw [he] <;> exact hlife

/-- A read edge out of reset touches no phase and no reset of the FIFO. -/
theorem SameFifoLife.of_rdEdge (ho : s.rdRst = .out) (h : rdEdge l s = .next t) : SameFifoLife s t := by
  obtain ⟨u, hu, ht⟩ := andThen_next.1 h
  have hlife : SameFifoLife s u := by
    obtain ⟨-, ⟨-, -, i, hd, -⟩ | ⟨-, -, ⟨i, hd⟩, -⟩⟩ := rdCommand_next hu <;> exact (exec_of_rdCommand ho hd hu).2
  cases ht
  obtain he | he := shiftHead_cases u s.headG <;> rw [he] <;> exact hlife

end

/-- Settles O17: the pins' equations, the second edge as one out of reset, and the edges in reset. -/
theorem pinsActOnTheirOwnDomain : Obligations.PinsActOnTheirOwnDomain := by
  refine ⟨fun s hw hr => ⟨?wrAlone, ?rdAlone⟩, fun s hw hr => ?rdLate, fun s hw hr => ?wrLate, fun s h => ?ctrHeld,
    fun s h => ?ctrHigh, fun _ => rfl, fun s t l h he => ?wrSecond, fun s t l h he => ?rdSecond,
    fun s t l h he => ?rdInReset, fun s t l h he => ?wrInReset⟩
  case wrAlone => rw [fifoPins_wrHigh, if_pos hr, hw]; rfl
  case rdAlone => rw [fifoPins_rdHigh, if_pos hw, hr]; rfl
  case rdLate => rw [fifoPins_high, RstSync.pinHigh_of_ne_held hw, hr]; rfl
  case wrLate => rw [fifoPins_high, RstSync.pinHigh_of_ne_held hr, hw]; rfl
  case ctrHeld => rw [ctrPin, h]; rfl
  case ctrHigh => rw [ctrPin, RstSync.pinHigh_of_ne_held h]; rfl
  case wrSecond => exact SameFifoLife.of_wrEdge rfl (wrEdge_of_oneEdge h l ▸ he)
  case rdSecond =>
    obtain ⟨hlive, hwr, hrd⟩ := SameFifoLife.of_rdEdge rfl (rdEdge_of_oneEdge h l ▸ he)
    exact ⟨hlive, hrd, hwr⟩
  case rdInReset =>
    obtain ⟨-, -, -, rfl⟩ := (rdEdge_inReset h).1 he
    exact ⟨fun _ => rfl, ⟨rfl, rfl, rfl⟩, ⟨rfl, rfl, rfl⟩, rfl, rfl, rfl⟩
  case wrInReset =>
    obtain ⟨-, -, -, rfl⟩ := (wrEdge_inReset h).1 he
    exact ⟨fun _ => rfl, ⟨rfl, rfl, rfl⟩, ⟨rfl, rfl, rfl⟩, rfl, rfl, rfl⟩

/-! ## The second edge (70_reset_and_hazards.md R232, R237) -/

theorem andThen_next_right (o : Host.Outcome State Fault Refusal) : andThen o .next = o := by cases o <;> rfl

/-- A counter edge with one command runs it out of reset and ignores it in reset. -/
theorem ctrEdge_singleton {l : Line} {p : Nat} (hl : l.offer.port = .k p) (s : State) :
    ctrEdge [l] s =
      if s.ctrEdgeStart.ctrRst = .out then runLine l s.ctrEdgeStart else ignoreLine l s.ctrEdgeStart := by
  simp [ctrEdge, counterPort_of_port hl, eachLine, andThen_next_right]

/-- Settles O16: each domain's first edge finds it in reset, and its second is an edge out of reset. -/
theorem commandsAreTakenFromTheSecondEdge : Obligations.CommandsAreTakenFromTheSecondEdge := by
  have hpins (s : State) (hw : s.wrRst = .held) (hr : s.rdRst = .held) :
      fifoPins true true s = .next { s with wrRst := .noEdge, rdRst := .noEdge } := by
    rw [fifoPins_high, hw, hr]; rfl
  refine ⟨fun s l i hw hr ha hp hd => ?write, fun s l i hw hr ha hp hd => ?read, fun s l p i hc hlt ha hp hd => ?counter⟩
  case write =>
    have hfirst := (wrEdge_inReset (s := { s with wrRst := .noEdge, rdRst := .noEdge }) (.inr rfl)).2
      ⟨ha, hp, ⟨i, hd⟩, rfl⟩
    refine ⟨_, _, hpins s hw hr, hfirst, fun _ => rfl, ⟨rfl, rfl, rfl⟩, ⟨rfl, rfl, rfl⟩, rfl, rfl, fun v hv => ?_⟩
    rw [wrEdge_of_oneEdge rfl, wrEdge, wrCommand_eq ha hp rfl hd, hv]
    rfl
  case read =>
    have hfirst := (rdEdge_inReset (s := { s with wrRst := .noEdge, rdRst := .noEdge }) (.inr rfl)).2
      ⟨ha, hp, ⟨i, hd⟩, rfl⟩
    refine ⟨_, _, hpins s hw hr, hfirst, fun _ => rfl, ⟨rfl, rfl, rfl⟩, ⟨rfl, rfl, rfl⟩, rfl, rfl, fun v hv => ?_⟩
    rw [rdEdge_of_oneEdge rfl, rdEdge, rdCommand_eq ha hp rfl hd, hv]
    rfl
  case counter =>
    have hagent : l.agent = l.offer.port.driver := by rw [ha, hp]; rfl
    have hpin : ctrPin true s = .next { s with ctrRst := .noEdge } := by rw [ctrPin, hc]; rfl
    have hport (q : Nat) (hq : counterPort l = some q) : q < s.params.ports := by
      cases (counterPort_of_port hp).symm.trans hq
      exact hlt
    have hfirst : ctrEdge [l] { s with ctrRst := .noEdge } =
        .next { s with ctrRst := .oneEdge, ctrOut := List.replicate s.params.ports none } :=
      (ctrEdge_singleton hp _).trans (ignoreLine_next.2 ⟨hagent, ⟨i, hd⟩, hport, rfl⟩)
    exact ⟨_, _, hpin, hfirst, rfl, rfl, ctrAnswer_of_replicate rfl, rfl,
      (ctrEdge_singleton hp _).trans (runLine_eq hagent hd _)⟩

end Sys2Proof.Machine
